-- ==== Sys2Proof/Word.lean ====
section
/-! DEFINITION. The bit vectors of the hardware (00_scope.md R5, R8; 30_encoding.md R71, R72). -/

namespace Sys2Proof

/-- A 32-bit unsigned datapath word (00_scope.md R5, R8). -/
abbrev Word := BitVec 32

/-- One byte of the message space (20_memory.md R50). -/
abbrev Byte := BitVec 8

/-- A format H record `{d, n, v}`: one host transaction (30_encoding.md R71). -/
abbrev Record := BitVec 37

/-- A format U selector `{phase, q}`: one micro-operation (30_encoding.md R72). -/
abbrev Selector := BitVec 5

end Sys2Proof
end

