-- ==== Sys2Proof/Syntax.lean ====
section
/-! DEFINITION. The operations: one constructor per row of spec/opcode_table.json (30_encoding.md R74), with the fields that
select something. The ignored bits of a record (`v` of a read, bits 31:1 of a `CTRL` write, R71, R76) are no operands. -/

namespace Sys2Proof

/-- A register of the host's register space (10_state.md R30), named by what stands at its number. -/
inductive Reg where
  | ctrl                    -- 0
  | status                  -- 1
  | lenLo                   -- 2
  | lenHi                   -- 3
  | digest (i : Fin 5)      -- 4 + i
  | reserved (n : Nat)      -- n, 9 to 15 (WellFormed says so)
deriving DecidableEq, Repr

/-- The twelve operations of 30_encoding.md R74. The first five are host transactions (format H), the others
micro-operations of the sequencer (format U), which have no operand fields (R73). -/
inductive Instr where
  | start
  | nop
  | wrlenlo (v : Word)
  | wrlenhi (v : Word)
  | rdreg (r : Reg)
  | loadw
  | seed
  | rnd0
  | rnd1
  | rnd2
  | rnd3
  | fold
deriving DecidableEq, Repr

end Sys2Proof
end

