-- ==== Sys2Proof/WellFormed.lean ====
section
/-! DEFINITION. Which terms of Instr are operations of the hardware: the reserved register numbers are 9 to 15
(10_state.md R30, R35). -/

namespace Sys2Proof

/-- A reserved register's number is one of 9 to 15: below stand the registers that have a name, above there is none
(10_state.md R30). -/
def Reg.wf : Reg → Bool
  | .ctrl => true
  | .status => true
  | .lenLo => true
  | .lenHi => true
  | .digest _ => true
  | .reserved n => decide (9 ≤ n) && decide (n ≤ 15)

/-- Only RDREG has an operand that can be out of its range (30_encoding.md R73). -/
def Instr.wf : Instr → Bool
  | .start => true
  | .nop => true
  | .wrlenlo _ => true
  | .wrlenhi _ => true
  | .rdreg r => r.wf
  | .loadw => true
  | .seed => true
  | .rnd0 => true
  | .rnd1 => true
  | .rnd2 => true
  | .rnd3 => true
  | .fold => true

end Sys2Proof
end

