-- ==== Sys2Proof/Decode.lean ====
section
/-! DEFINITION. Decoding and encoding of the two formats (30_encoding.md R71 to R79). Decoding is total: every record and
every selector is an operation or is rejected by name. A rejection stops nothing; what it means stands at its name. -/

namespace Sys2Proof

/-- Why a record or a selector is no operation of the table. -/
inductive Reject where
  | ignoredWrite (r : Reg)      -- a `RegWrite` to a read-only or reserved register: no effect (30_encoding.md R77)
  | idleSelector                -- `usel = 00000`: no step is enabled (R79)
  | reservedSelector (u : Selector)  -- any other selector outside the table: no step is enabled (R78, R79)
deriving DecidableEq, Repr

/-- What decoding answers. -/
inductive Decoded where
  | instr (i : Instr)
  | reject (r : Reject)
deriving DecidableEq, Repr

/-- The words of an operation: a 37-bit record or a 5-bit selector (30_encoding.md R70). -/
inductive Code where
  | host (r : Record)
  | usel (u : Selector)
deriving DecidableEq, Repr

/-- Field `d`, bit 36: 1 is a write (30_encoding.md R71). -/
def recordIsWrite (r : Record) : Bool := r.getLsbD 36

/-- Field `n`, bits 35:32: the register number (30_encoding.md R71). -/
def recordNumber (r : Record) : BitVec 4 := r.extractLsb' 32 4

/-- Field `v`, bits 31:0: the data written (30_encoding.md R71). -/
def recordValue (r : Record) : Word := r.extractLsb' 0 32

/-- The record of its three fields (30_encoding.md R71). -/
def makeRecord (d : Bool) (n : BitVec 4) (v : Word) : Record :=
  (BitVec.ofBool d ++ n ++ v).cast (by decide)

/-- The register at number `n` (10_state.md R30). -/
def regOfNumber (n : BitVec 4) : Reg :=
  match n.toNat with
  | 0 => .ctrl
  | 1 => .status
  | 2 => .lenLo
  | 3 => .lenHi
  | 4 => .digest 0
  | 5 => .digest 1
  | 6 => .digest 2
  | 7 => .digest 3
  | 8 => .digest 4
  | k => .reserved k

/-- The number of a register (10_state.md R30). -/
def regNumber : Reg → BitVec 4
  | .ctrl => 0
  | .status => 1
  | .lenLo => 2
  | .lenHi => 3
  | .digest i => BitVec.ofNat 4 (4 + i.val)
  | .reserved n => BitVec.ofNat 4 n

/-- A write of `v` to register `r` (30_encoding.md R75): START or NOP by `v[0]` alone (R76), a half of the length, or an
ignored write (R77). -/
def decodeWrite (r : Reg) (v : Word) : Decoded :=
  match r with
  | .ctrl => if v.getLsbD 0 then .instr .start else .instr .nop
  | .lenLo => .instr (.wrlenlo v)
  | .lenHi => .instr (.wrlenhi v)
  | .status => .reject (.ignoredWrite .status)
  | .digest i => .reject (.ignoredWrite (.digest i))
  | .reserved n => .reject (.ignoredWrite (.reserved n))

/-- Decoding a host transaction (30_encoding.md R75). -/
def decodeHost (r : Record) : Decoded :=
  if recordIsWrite r then decodeWrite (regOfNumber (recordNumber r)) (recordValue r)
  else .instr (.rdreg (regOfNumber (recordNumber r)))

/-- Decoding the sequencer's selector (30_encoding.md R74, R78, R79). -/
def decodeUsel (u : Selector) : Decoded :=
  if u = 0b00000#5 then .reject .idleSelector
  else if u = 0b00100#5 then .instr .loadw
  else if u = 0b01000#5 then .instr .seed
  else if u = 0b01100#5 then .instr .rnd0
  else if u = 0b01101#5 then .instr .rnd1
  else if u = 0b01110#5 then .instr .rnd2
  else if u = 0b01111#5 then .instr .rnd3
  else if u = 0b10000#5 then .instr .fold
  else .reject (.reservedSelector u)

/-- Decoding of either format. -/
def decode : Code → Decoded
  | .host r => decodeHost r
  | .usel u => decodeUsel u

/-- The words of an operation (30_encoding.md R74), every ignored bit 0, as software should write them (R76). -/
def encode : Instr → Code
  | .start => .host (makeRecord true 0 1)
  | .nop => .host (makeRecord true 0 0)
  | .wrlenlo v => .host (makeRecord true 2 v)
  | .wrlenhi v => .host (makeRecord true 3 v)
  | .rdreg r => .host (makeRecord false (regNumber r) 0)
  | .loadw => .usel 0b00100#5
  | .seed => .usel 0b01000#5
  | .rnd0 => .usel 0b01100#5
  | .rnd1 => .usel 0b01101#5
  | .rnd2 => .usel 0b01110#5
  | .rnd3 => .usel 0b01111#5
  | .fold => .usel 0b10000#5

/-- The instruction in a decoding, if it is one. -/
def decodedInstr? : Decoded → Option Instr
  | .instr i => some i
  | .reject _ => none

/-- The code of `nbits` bits `w`: the rows of format U are 5 bits wide (one whole byte at most), those of format H 37
(30_encoding.md R70 to R72; log entry 13). None where `w` does not fit the format. -/
def codeOfTableWord (nbits w : Nat) : Option Code :=
  if nbits ≤ 8 then
    if w < 2 ^ 5 then some (.usel (BitVec.ofNat 5 w)) else none
  else if w < 2 ^ 37 then some (.host (BitVec.ofNat 37 w)) else none

/-- The operation the decoder reads from the table's word `w` of `nbits` bits. -/
def decodeTableWord (nbits w : Nat) : Option Instr :=
  match codeOfTableWord nbits w with
  | some c => decodedInstr? (decode c)
  | none => none

end Sys2Proof
end

