-- ==== Sys2Proof/Config.lean ====
section
/-! DEFINITION. The free values: what the spec leaves unspecified while the machine goes on. Each is an opaque
constant, so no proof can know a value of it; it is applied to the counter `draws` of State, so that no two draws need agree. -/

namespace Sys2Proof

/-- What `RegRead(DIGESTn)` returns while `DONE = 0` on free draw `n`: "any 32-bit value, possibly different at each
read" (10_state.md R34, 93_implementation_defined.md U3; log entry 6). -/
opaque Config.freeDigest : Nat → Word

/-- Whether the core still reads the byte that the host replaced during a run on free draw `n`: "either value,
unspecified which" (20_memory.md R60, 93_implementation_defined.md U4; log entry 7). -/
opaque Config.raceTakesOld : Nat → Bool

/-- What a reset event on free draw `n` leaves in the 32-bit datapath register `i` (`H` is 0 to 4, `a..e` 5 to 9, `W` 10
to 25): unspecified (70_reset_and_hazards.md R200; log entry 9). -/
opaque Config.resetWord : Nat → Nat → Word

/-- What a reset event on free draw `n` leaves in `blk`: unspecified (70_reset_and_hazards.md R200; log entry 9). -/
opaque Config.resetBlk : Nat → BitVec 56

/-- What a reset event on free draw `n` leaves in `t`: unspecified (70_reset_and_hazards.md R200; log entry 9). -/
opaque Config.resetT : Nat → BitVec 7

end Sys2Proof
end

