-- ==== Sys2Proof/Machine/State.lean ====
section
/-! DEFINITION. The state as plain data (10_state.md R20), the reasons a step can stop, and the state after reset (R38). -/

namespace Sys2Proof.Machine

/-- The eight codes of the 3-bit `phase` (10_state.md R27). The three reserved ones are unreachable; no step is enabled in
them (30_encoding.md R78). -/
inductive Phase where
  | idle
  | load
  | seed
  | round
  | fold
  | reserved5
  | reserved6
  | reserved7
deriving DecidableEq, Repr

/-- The working variables `a, b, c, d, e` (10_state.md R23). -/
structure Work where
  a : Word
  b : Word
  c : Word
  d : Word
  e : Word
deriving DecidableEq, Repr

/-- The message space's bytes as the host has placed them: address and byte, addresses strictly rising
(20_memory.md R50, R51). An unlisted address holds no byte: the port does not answer there (R52; log entry 3). -/
abbrev Memory := List Host.Cell

/-- A byte the host replaced during the current run: the core's read gives it or the newer one (20_memory.md R60).
`draw` numbers the free choice between them (log entry 7). -/
structure StaleByte where
  addr : Nat
  old  : Byte
  draw : Nat
deriving DecidableEq, Repr

/-- Who moves next (00_scope.md R10, 44_driver_host.md R174; log entry 2). -/
inductive Event where
  | txn (r : Record)                     -- the host issues the transaction of record `r` (30_encoding.md R71)
  | reset                                -- the reset event (70_reset_and_hazards.md R200)
  | place (addr : BitVec 64) (v : Byte)  -- the host places a byte in MSG (20_memory.md R51, R60)
  | core                                 -- the sequencer's turn (00_scope.md R10)
deriving DecidableEq, Repr

/-- One instance of `sha1_core` (10_state.md R20), with the message space the host owns, the instance's configuration and
the model's own bookkeeping (INVENTORY.md, State). -/
structure State where
  H      : Vector Word 5     -- the running hash value (R21)
  wv     : Work              -- `a..e` (R23)
  W      : Vector Word 16    -- the rolling schedule buffer (R22)
  LEN    : BitVec 64         -- the message length in bytes (R24)
  phase  : Phase             -- the position: which micro-operation is next (R26, R27)
  blk    : BitVec 56         -- the position: block index (R26)
  t      : BitVec 7          -- the position: word or round index (R26)
  BUSY   : Bool              -- R25
  DONE   : Bool              -- R25
  ERR    : Bool              -- R25
  MSG    : Memory            -- the message space (20_memory.md R50)
  hostLE : Bool              -- HOST_LE, configuration: no step writes it (00_scope.md R7; log entry 4)
  agenda : List Event        -- who moves next; empty: the sequencer (log entry 2)
  reply  : Option Word       -- what the last RegRead returned (44_driver_host.md R166; log entry 5)
  draws  : Nat               -- free values drawn so far (log entry 6)
  stale  : List StaleByte    -- bytes replaced during the current run, newest first (log entry 7)
deriving DecidableEq, Repr

/-- Why a step stops. The spec has no event that stops the machine; no state a run from reset reaches raises one of
these (log entry 8). -/
inductive Fault where
  /-- Raised by the meaning of a micro-operation in a state where its rule says it is not enabled (R118, R140, R141, R146
  "Enabled when"). `step` never raises it: it selects the micro-operation by `usel`. Safe: the spec gives no effect. -/
  | notEnabled
  /-- Raised by LOADW at `t > 15`: `W` has no such slot (41_padding_endianness.md R118). Unreachable. Safe. -/
  | noSlot
  /-- Raised by LOADW where a byte index is outside the padded message or `LEN >= 2^61`: PadByte is not defined there
  (41_padding_endianness.md R110, R112). Unreachable. Safe. -/
  | padUndefined
deriving DecidableEq, Repr

/-- Why a step is refused. -/
inductive Refusal where
  /-- Raised by `exec` for an instruction that has no meaning yet. Safe: nothing is claimed of it. -/
  | notModelled (mnemonic : String)
deriving DecidableEq, Repr

/-- The machine right after reset (10_state.md R38): `phase = IDLE`, the flags 0, `LEN = 0`. The spec leaves `H`, `a..e`,
`W`, `blk` and `t` unspecified; here they are 0, a DESIGN CHOICE (log entry 1), and `hostLE` is true (log entry 4). -/
def State.reset : State where
  H := Vector.replicate 5 0
  wv := { a := 0, b := 0, c := 0, d := 0, e := 0 }
  W := Vector.replicate 16 0
  LEN := 0
  phase := .idle
  blk := 0
  t := 0
  BUSY := false
  DONE := false
  ERR := false
  MSG := []
  hostLE := true
  agenda := []
  reply := none
  draws := 0
  stale := []

end Sys2Proof.Machine
end

