-- ==== Sys2Proof/Machine/Flags.lean ====
section
/-! DEFINITION. The three flags: the `STATUS` word and every operation that writes a flag (10_state.md R25, R32). No
arithmetic result sets a flag (R25). -/

namespace Sys2Proof.Machine

/-- The phase codes 5 to 7 (10_state.md R27). -/
def reservedPhase : Phase → Bool
  | .idle => false
  | .load => false
  | .seed => false
  | .round => false
  | .fold => false
  | .reserved5 => true
  | .reserved6 => true
  | .reserved7 => true

/-- `BUSY` as every host operation reads it: the flag, and 1 in a reserved phase, where the core "is stuck with `BUSY = 1`
until reset" (30_encoding.md R78, 92_eei_decisions.md D28; log entry 14). -/
def busy (s : State) : Bool := s.BUSY || reservedPhase s.phase

/-- `STATUS`: bit 2 `ERR`, bit 1 `DONE`, bit 0 `BUSY`, the others 0 (10_state.md R32, 44_driver_host.md R166). -/
def statusWord (s : State) : Word :=
  (BitVec.ofBool s.ERR ++ BitVec.ofBool s.DONE ++ BitVec.ofBool (busy s)).setWidth 32

/-- An accepted START: `ERR <- 0; DONE <- 0; BUSY <- 1` (44_driver_host.md R161). -/
def flagsAccepted (s : State) : State := { s with ERR := false, DONE := false, BUSY := true }

/-- A refused START: `ERR <- 1; DONE <- 0` (60_exceptions.md R183). -/
def flagsRefused (s : State) : State := { s with ERR := true, DONE := false }

/-- The last FOLD of a run: `BUSY <- 0; DONE <- 1` (43_compression.md R146). -/
def flagsFinished (s : State) : State := { s with BUSY := false, DONE := true }

/-- Reset: the three flags 0 (70_reset_and_hazards.md R200). -/
def flagsReset (s : State) : State := { s with BUSY := false, DONE := false, ERR := false }

end Sys2Proof.Machine
end

