-- ==== Sys2Proof/Machine/Primitives.lean ====
section
/-! DEFINITION. The pure functions of 40_primitives.md: addition, rotation, byte swap, round functions, constants. -/

namespace Sys2Proof.Machine

/-- `ADD32`: addition modulo `2^32` (40_primitives.md R90, R101). -/
def add32 (x y : Word) : Word := x + y

/-- `ROTL32`, BitRotate: circular left shift; the amount 0 is a case of its own (40_primitives.md R91). -/
def rotl32 (x : Word) (n : Fin 32) : Word :=
  if n.val = 0 then x else (x <<< n.val) ||| (x >>> (32 - n.val))

/-- `BSWAP32`: the four bytes in reverse order (40_primitives.md R92). -/
def bswap32 (x : Word) : Word :=
  (x.extractLsb' 0 8 ++ x.extractLsb' 8 8 ++ x.extractLsb' 16 8 ++ x.extractLsb' 24 8).cast (by decide)

/-- `QUARTER(t) = t div 20` (40_primitives.md R93). -/
def quarter (t : Nat) : Nat := t / 20

/-- `f_0`, rounds 0-19 (40_primitives.md R94). -/
def f0 (b c d : Word) : Word := d ^^^ (b &&& (c ^^^ d))

/-- `f_1`, rounds 20-39 (40_primitives.md R95). -/
def f1 (b c d : Word) : Word := b ^^^ c ^^^ d

/-- `f_2`, rounds 40-59 (40_primitives.md R96). -/
def f2 (b c d : Word) : Word := (b &&& c) ||| (d &&& (b ||| c))

/-- `f_3`, rounds 60-79 (40_primitives.md R97). -/
def f3 (b c d : Word) : Word := b ^^^ c ^^^ d

/-- The round function of quarter `q` (40_primitives.md R94 to R97). -/
def roundFun (q : Fin 4) : Word → Word → Word → Word :=
  match q with
  | 0 => f0
  | 1 => f1
  | 2 => f2
  | 3 => f3

/-- The round constant `K_q` (40_primitives.md R99). -/
def roundConst (q : Fin 4) : Word :=
  match q with
  | 0 => 0x5A827999#32
  | 1 => 0x6ED9EBA1#32
  | 2 => 0x8F1BBCDC#32
  | 3 => 0xCA62C1D6#32

/-- The initial state `IV[0..4]` (40_primitives.md R100). -/
def initialH : Vector Word 5 :=
  #v[0x67452301#32, 0xEFCDAB89#32, 0x98BADCFE#32, 0x10325476#32, 0xC3D2E1F0#32]

end Sys2Proof.Machine
end

