-- ==== Sys2Proof/Machine/Padding.lean ====
section
/-! DEFINITION. Padding, length encoding and the endianness adapter (41_padding_endianness.md R110 to R117). -/

namespace Sys2Proof.Machine

/-- The largest message length whose bit length fits 64 bits is below this bound (60_exceptions.md R180). -/
def lengthBound : Nat := 2 ^ 61

/-- `NBLK`, the number of blocks of a message of `L` bytes (41_padding_endianness.md R110). -/
def nblk (L : Nat) : Nat := (L + 8) / 64 + 1

/-- `P`, the length of the padded message in bytes (41_padding_endianness.md R110). -/
def paddedLen (L : Nat) : Nat := 64 * nblk L

/-- Byte `i` of the 64-bit big-endian encoding of `8 * L` (41_padding_endianness.md R111). -/
def lengthByte (L i : Nat) : Byte := BitVec.ofNat 8 ((8 * L) >>> (8 * (7 - i)))

/-- `PadByte(j)` of a message of `L` bytes read through `read` (41_padding_endianness.md R112). None is the port that does
not deliver the byte (20_memory.md R52). -/
def padByte (L : Nat) (read : Nat → Option Byte) (j : Nat) : Option Byte :=
  if j < L then read j
  else if j = L then some 0x80#8
  else if j < paddedLen L - 8 then some 0x00#8
  else some (lengthByte L (j - (paddedLen L - 8)))

/-- `BE32`: the word of four bytes in big-endian order (41_padding_endianness.md R114). -/
def be32 (b0 b1 b2 b3 : Byte) : Word := (b0 ++ b1 ++ b2 ++ b3).cast (by decide)

/-- `PackHost`: the native word a host of the given byte order sees (41_padding_endianness.md R115). -/
def packHost (b0 b1 b2 b3 : Byte) (hostLE : Bool) : Word :=
  if hostLE then (b3 ++ b2 ++ b1 ++ b0).cast (by decide) else (b0 ++ b1 ++ b2 ++ b3).cast (by decide)

/-- `Adapt`, the Endianness Adapter (41_padding_endianness.md R116). -/
def adapt (x : Word) (hostLE : Bool) : Word :=
  if hostLE then bswap32 x else x

end Sys2Proof.Machine
end

