-- ==== Sys2Proof/Machine/Ops.lean ====
section
/-! DEFINITION. The named operations over memory and registers: the message space, the one exception, the accepted start of
a run, the reset event, the halves of the length. -/

namespace Sys2Proof.Machine

/-- The byte placed at an address, none where none was (20_memory.md R52). -/
def Memory.read : Memory → Nat → Option Byte
  | [], _ => none
  | (k, v) :: rest, a => if k = a then some v else Memory.read rest a

/-- Placing a byte keeps the addresses strictly rising (20_memory.md R51). -/
def Memory.write : Memory → Nat → Byte → Memory
  | [], a, b => [(a, b)]
  | (k, v) :: rest, a, b =>
    if a < k then (a, b) :: (k, v) :: rest
    else if a = k then (a, b) :: rest
    else (k, v) :: Memory.write rest a b

/-- The canonical form: addresses strictly rising, each a 64-bit address (20_memory.md R50). -/
def Memory.wf (m : Memory) : Bool :=
  decide (m.Pairwise (fun x y => x.1 < y.1)) && m.all (fun c => decide (c.1 < 2 ^ 64))

/-- The byte the read of `a` still gives of those the host replaced during the run, if the race goes that way: each
replacement has its own free choice (20_memory.md R60; log entry 7). -/
def staleRead : List StaleByte → Nat → Option Byte
  | [], _ => none
  | x :: rest, a => if x.addr = a ∧ Config.raceTakesOld x.draw = true then some x.old else staleRead rest a

/-- `MemRead(MSG, a, 1)` (20_memory.md R52). None is the port that does not answer. It changes no state. -/
def msgRead (s : State) (a : Nat) : Option Byte :=
  match staleRead s.stale a with
  | some v => some v
  | none => s.MSG.read a

/-- The byte the host replaces now, where the replacement is a race: `BUSY = 1`, an address of the message, a different
byte there before (20_memory.md R60). -/
def racedByte (s : State) (a : Nat) (v : Byte) : Option Byte :=
  if s.BUSY = true ∧ a < s.LEN.toNat then
    match s.MSG.read a with
    | some old => if old = v then none else some old
    | none => none
  else none

/-- The host places byte `v` at `a` (20_memory.md R51, R60; 44_driver_host.md R174). -/
def placeByte (a : Nat) (v : Byte) (s : State) : State :=
  match racedByte s a v with
  | some old =>
    { s with MSG := s.MSG.write a v, stale := { addr := a, old := old, draw := s.draws } :: s.stale, draws := s.draws + 1 }
  | none => { s with MSG := s.MSG.write a v }

/-- Taking the one exception, InputTooLarge: `ERR <- 1; DONE <- 0` "and nothing else" (60_exceptions.md R183). There is no
return operation: `ERR` is cleared by the next accepted START or by reset (R184). -/
def raiseInputTooLarge (s : State) : State := flagsRefused s

/-- An accepted START: the flags, `H <- IV`, position `(LOAD, 0, 0)` (44_driver_host.md R161). The races of an earlier run
are over (`stale`, the model's own field). -/
def beginRun (s : State) : State :=
  { flagsAccepted s with H := initialH, blk := 0, t := 0, phase := .load, stale := [] }

/-- The reset event (70_reset_and_hazards.md R200, R201): control state to its reset values; `H`, `a..e`, `W`, `blk`, `t`
unspecified, so free values (log entry 9). `MSG` is the host's and stays. -/
def resetEvent (s : State) : State :=
  let n := s.draws
  { flagsReset s with
    phase := .idle
    LEN := 0
    H := Vector.ofFn (fun i : Fin 5 => Config.resetWord n i.val)
    wv := { a := Config.resetWord n 5, b := Config.resetWord n 6, c := Config.resetWord n 7,
            d := Config.resetWord n 8, e := Config.resetWord n 9 }
    W := Vector.ofFn (fun i : Fin 16 => Config.resetWord n (10 + i.val))
    blk := Config.resetBlk n
    t := Config.resetT n
    stale := []
    draws := n + 1 }

/-- `LEN[31:0]` (10_state.md R33). -/
def lenLow (x : BitVec 64) : Word := x.extractLsb' 0 32

/-- `LEN[63:32]` (10_state.md R33). -/
def lenHigh (x : BitVec 64) : Word := x.extractLsb' 32 32

/-- `LEN[31:0] <- v`, the other half unchanged, while `BUSY = 0` (44_driver_host.md R164). -/
def writeLenLow (v : Word) (s : State) : State :=
  if busy s then s else { s with LEN := (lenHigh s.LEN ++ v).cast (by decide) }

/-- `LEN[63:32] <- v`, the other half unchanged, while `BUSY = 0` (44_driver_host.md R164). -/
def writeLenHigh (v : Word) (s : State) : State :=
  if busy s then s else { s with LEN := (v ++ lenLow s.LEN).cast (by decide) }

end Sys2Proof.Machine
end

