-- ==== Sys2Proof/Machine/Schedule.lean ====
section
/-! DEFINITION. The rolling schedule buffer and its step (42_schedule.md R131, R132). -/

namespace Sys2Proof.Machine

/-- Slot `n and 15` of the buffer (42_schedule.md R131). -/
def slotRead (W : Vector Word 16) (n : Nat) : Word :=
  W[n % 16]'(Nat.mod_lt n (by decide))

/-- Writing slot `n and 15` of the buffer (42_schedule.md R131). -/
def slotWrite (W : Vector Word 16) (n : Nat) (x : Word) : Vector Word 16 :=
  W.set (n % 16) x (Nat.mod_lt n (by decide))

/-- The schedule entry that round `t` consumes: read for `t <= 15`, else computed from four slots (42_schedule.md R132). -/
def schedWord (W : Vector Word 16) (t : Nat) : Word :=
  if t ≤ 15 then slotRead W t
  else rotl32 (slotRead W (t - 3) ^^^ slotRead W (t - 8) ^^^ slotRead W (t - 14) ^^^ slotRead W t) 1

/-- The buffer after `SchedStep(t)`: for `t >= 16` the new entry replaces the oldest (42_schedule.md R132). -/
def schedBuffer (W : Vector Word 16) (t : Nat) : Vector Word 16 :=
  if t ≤ 15 then W else slotWrite W t (schedWord W t)

end Sys2Proof.Machine
end

