-- ==== Sys2Proof/Machine/Operands.lean ====
section
/-! DEFINITION. The operands: what a register read returns, the selector the position gives, the four bytes and the word a
LOADW takes from the position (30_encoding.md R72, R73). -/

namespace Sys2Proof.Machine

/-- Whether the read draws a free value: a digest register while `DONE = 0` (10_state.md R34). -/
def readIsFree (s : State) : Reg → Bool
  | .digest _ => !s.DONE
  | .ctrl => false
  | .status => false
  | .lenLo => false
  | .lenHi => false
  | .reserved _ => false

/-- `RegRead` (44_driver_host.md R166; 10_state.md R31 to R35). -/
def regRead (s : State) : Reg → Word
  | .ctrl => 0
  | .status => statusWord s
  | .lenLo => lenLow s.LEN
  | .lenHi => lenHigh s.LEN
  | .digest i => if s.DONE then s.H[i] else Config.freeDigest s.draws
  | .reserved _ => 0

/-- The 3-bit code of a phase (10_state.md R27). -/
def phaseCode : Phase → BitVec 3
  | .idle => 0
  | .load => 1
  | .seed => 2
  | .round => 3
  | .fold => 4
  | .reserved5 => 5
  | .reserved6 => 6
  | .reserved7 => 7

/-- The selector `usel = {phase, q}`, `q = t div 20` in ROUND and 0 elsewhere (30_encoding.md R72). None in ROUND with
`t > 79`, which is unreachable: no round micro-operation has that quarter (43_compression.md R141; log entry 10). -/
def usel (s : State) : Option Selector :=
  if s.phase = .round then
    if s.t.toNat ≤ 79 then some ((phaseCode s.phase ++ BitVec.ofNat 2 (quarter s.t.toNat)).cast (by decide)) else none
  else some ((phaseCode s.phase ++ 0#2).cast (by decide))

/-- The index of the first byte of word `t` of block `blk` (41_padding_endianness.md R118). -/
def wordIndex (s : State) : Nat := 64 * s.blk.toNat + 4 * s.t.toNat

/-- Whether `PadByte` is defined for the four bytes of a LOADW: `L <= 2^61 - 1` and indices below `P`
(41_padding_endianness.md R110, R112). -/
def padDefined (s : State) : Bool :=
  decide (s.LEN.toNat < lengthBound) && decide (wordIndex s + 3 < paddedLen s.LEN.toNat)

/-- `PadByte(j)` in a state (41_padding_endianness.md R112). -/
def statePadByte (s : State) (j : Nat) : Option Byte := padByte s.LEN.toNat (msgRead s) j

/-- The word a LOADW loads: four bytes in increasing order through the host lane and the adapter
(41_padding_endianness.md R118). None where the port does not deliver one of them (20_memory.md R52). -/
def loadWord (s : State) : Option Word :=
  match statePadByte s (wordIndex s), statePadByte s (wordIndex s + 1),
    statePadByte s (wordIndex s + 2), statePadByte s (wordIndex s + 3) with
  | some b0, some b1, some b2, some b3 => some (adapt (packHost b0 b1 b2 b3 s.hostLE) s.hostLE)
  | _, _, _, _ => none

/-- The message addresses the LOADW of position `(blk, t)` reads, in order (20_memory.md R56). -/
def loadAddresses (L blk t : Nat) : List Nat :=
  ([0, 1, 2, 3].map (fun k => 64 * blk + 4 * t + k)).filter (fun a => decide (a < L))

/-- Whether this block is the last: `blk + 1 = NBLK` (43_compression.md R146). -/
def lastBlock (s : State) : Bool := decide (s.blk.toNat + 1 = nblk s.LEN.toNat)

/-- The phase of a 3-bit code (10_state.md R27). -/
def phaseOfCode (c : BitVec 3) : Phase :=
  match c.toNat with
  | 0 => .idle
  | 1 => .load
  | 2 => .seed
  | 3 => .round
  | 4 => .fold
  | 5 => .reserved5
  | 6 => .reserved6
  | _ => .reserved7

/-- Field `phase` of a selector, bits 4:2 (30_encoding.md R72). -/
def selectorPhase (u : Selector) : Phase := phaseOfCode (u.extractLsb' 2 3)

/-- Field `q` of a selector, bits 1:0 (30_encoding.md R72). -/
def selectorQuarter (u : Selector) : Nat := (u.extractLsb' 0 2).toNat

/-- Index `t` brought into what selector `u` takes: in ROUND into its quarter, in LOAD to a slot; a value already there
stays. Used only to place a micro-operation before the sequencer's next turn (log entry 13). -/
def indexFor (u : Selector) (t : BitVec 7) : BitVec 7 :=
  if selectorPhase u = .round then
    if quarter t.toNat = selectorQuarter u then t else BitVec.ofNat 7 (20 * selectorQuarter u)
  else if selectorPhase u = .load ∧ 15 < t.toNat then 0
  else t

/-- The state with its position moved so that selector `u` is the enabled step (log entry 13). -/
def positionFor (u : Selector) (s : State) : State :=
  { s with phase := selectorPhase u, t := indexFor u s.t }

end Sys2Proof.Machine
end

