-- ==== Sys2Proof/Machine/HostOps.lean ====
section
/-! DEFINITION. The meanings of the host transactions START, NOP, WRLENLO, WRLENHI and RDREG (44_driver_host.md R161 to
R166). None of them fails (R160, R181). -/

namespace Sys2Proof.Machine

/-- START, in the order of 60_exceptions.md R185: ignored while `BUSY = 1` (44_driver_host.md R162), refused with
InputTooLarge where `LEN >= 2^61` (R161, 60_exceptions.md R180), else accepted (R161). -/
def execStart (s : State) : Host.Outcome State Fault Refusal :=
  if busy s then .next s
  else if lengthBound ≤ s.LEN.toNat then .next (raiseInputTooLarge s)
  else .next (beginRun s)

/-- NOP: no state changes (44_driver_host.md R163). -/
def execNop (s : State) : Host.Outcome State Fault Refusal := .next s

/-- WRLENLO (44_driver_host.md R164). -/
def execWrlenlo (v : Word) (s : State) : Host.Outcome State Fault Refusal := .next (writeLenLow v s)

/-- WRLENHI (44_driver_host.md R164). -/
def execWrlenhi (v : Word) (s : State) : Host.Outcome State Fault Refusal := .next (writeLenHigh v s)

/-- RDREG returns 32 bits to the host and changes no state of the core (44_driver_host.md R166). `reply` and `draws` are the
model's own (log entries 5, 6). -/
def execRdreg (r : Reg) (s : State) : Host.Outcome State Fault Refusal :=
  .next { s with reply := some (regRead s r), draws := if readIsFree s r then s.draws + 1 else s.draws }

end Sys2Proof.Machine
end

