-- ==== Sys2Proof/Machine/Compression.lean ====
section
/-! DEFINITION. The datapath of the compression round: seeding, one round, the additive fold (43_compression.md R140, R141,
R146), as pure functions that the micro-operations and the block function share. -/

namespace Sys2Proof.Machine

/-- The working variables seeded from the state (43_compression.md R140). -/
def seedWork (H : Vector Word 5) : Work :=
  { a := H[0], b := H[1], c := H[2], d := H[3], e := H[4] }

/-- `temp` of a round (43_compression.md R141). -/
def roundTemp (q : Fin 4) (v : Work) (wt : Word) : Word :=
  add32 (add32 (add32 (add32 (rotl32 v.a 5) v.e) (roundFun q v.b v.c v.d)) (roundConst q)) wt

/-- One round: all five assignments read the values before the step (43_compression.md R141). -/
def roundWork (q : Fin 4) (v : Work) (wt : Word) : Work :=
  { a := roundTemp q v wt, b := v.a, c := rotl32 v.b 30, d := v.c, e := v.d }

/-- The additive fold into the state (43_compression.md R146). -/
def foldH (H : Vector Word 5) (v : Work) : Vector Word 5 :=
  #v[add32 H[0] v.a, add32 H[1] v.b, add32 H[2] v.c, add32 H[3] v.d, add32 H[4] v.e]

end Sys2Proof.Machine
end

