-- ==== Sys2Proof/Machine/Sequencer.lean ====
section
/-! DEFINITION. The meanings of the micro-operations LOADW, SEED, RND0 to RND3 and FOLD (41_padding_endianness.md R118;
43_compression.md R140 to R146). Each is enabled in one phase only. -/

namespace Sys2Proof.Machine

/-- LOADW's effect once its word is there: `W[t]`, then SEED after slot 15, else the next slot (41_padding_endianness.md
R118). -/
def loadInto (x : Word) (s : State) : State :=
  { s with
    W := slotWrite s.W s.t.toNat x
    phase := if s.t.toNat = 15 then .seed else s.phase
    t := if s.t.toNat = 15 then s.t else s.t + 1 }

/-- LOADW (41_padding_endianness.md R118). Where the port does not deliver a byte the step does not happen (20_memory.md
R52). -/
def execLoadw (s : State) : Host.Outcome State Fault Refusal :=
  if s.phase = .load then
    if s.t.toNat ≤ 15 then
      if padDefined s then
        match loadWord s with
        | some x => .next (loadInto x s)
        | none => .next s
      else .fault .padUndefined
    else .fault .noSlot
  else .fault .notEnabled

/-- SEED (43_compression.md R140). -/
def execSeed (s : State) : Host.Outcome State Fault Refusal :=
  if s.phase = .seed then .next { s with wv := seedWork s.H, t := 0, phase := .round }
  else .fault .notEnabled

/-- The effect of the round step of quarter `q`; round 79 is the last (43_compression.md R141). -/
def roundInto (q : Fin 4) (s : State) : State :=
  { s with
    wv := roundWork q s.wv (schedWord s.W s.t.toNat)
    W := schedBuffer s.W s.t.toNat
    phase := if s.t.toNat = 79 then .fold else s.phase
    t := if s.t.toNat = 79 then s.t else s.t + 1 }

/-- `Round(q)`, enabled when `phase = ROUND` and `t div 20 = q` (43_compression.md R141). -/
def roundStep (q : Fin 4) (s : State) : Host.Outcome State Fault Refusal :=
  if s.phase = .round ∧ quarter s.t.toNat = q.val then .next (roundInto q s) else .fault .notEnabled

/-- RND0 (43_compression.md R142). -/
def execRnd0 (s : State) : Host.Outcome State Fault Refusal := roundStep 0 s

/-- RND1 (43_compression.md R143). -/
def execRnd1 (s : State) : Host.Outcome State Fault Refusal := roundStep 1 s

/-- RND2 (43_compression.md R144). -/
def execRnd2 (s : State) : Host.Outcome State Fault Refusal := roundStep 2 s

/-- RND3 (43_compression.md R145). -/
def execRnd3 (s : State) : Host.Outcome State Fault Refusal := roundStep 3 s

/-- FOLD's effect: the fold, then the end of the run after the last block, else the next block; `blk` and `t` keep their
values on the last block (43_compression.md R146). -/
def foldInto (s : State) : State :=
  if lastBlock s then { flagsFinished s with H := foldH s.H s.wv, phase := .idle }
  else { s with H := foldH s.H s.wv, blk := s.blk + 1, t := 0, phase := .load }

/-- FOLD (43_compression.md R146). -/
def execFold (s : State) : Host.Outcome State Fault Refusal :=
  if s.phase = .fold then .next (foldInto s) else .fault .notEnabled

end Sys2Proof.Machine
end

