-- ==== Sys2Proof/Machine/Dispatch.lean ====
section
/-! DEFINITION. One arm per operation of 30_encoding.md R74. -/

namespace Sys2Proof.Machine

def exec (i : Instr) (s : State) : Host.Outcome State Fault Refusal :=
  match i with
  | .start => Sys2Proof.Machine.execStart s
  | .nop => Sys2Proof.Machine.execNop s
  | .wrlenlo v => Sys2Proof.Machine.execWrlenlo v s
  | .wrlenhi v => Sys2Proof.Machine.execWrlenhi v s
  | .rdreg r => Sys2Proof.Machine.execRdreg r s
  | .loadw => Sys2Proof.Machine.execLoadw s
  | .seed => Sys2Proof.Machine.execSeed s
  | .rnd0 => Sys2Proof.Machine.execRnd0 s
  | .rnd1 => Sys2Proof.Machine.execRnd1 s
  | .rnd2 => Sys2Proof.Machine.execRnd2 s
  | .rnd3 => Sys2Proof.Machine.execRnd3 s
  | .fold => Sys2Proof.Machine.execFold s

end Sys2Proof.Machine
end

