-- ==== Sys2Proof/Machine/Agents.lean ====
section
/-! DEFINITION. The two agents' steps (00_scope.md R10): the next event of the agenda, a host transaction, the reset event,
a placed byte, the sequencer's turn. -/

namespace Sys2Proof.Machine

/-- The event that moves next: the head of the agenda, or the sequencer where the host does nothing more (00_scope.md R10;
log entry 2). -/
def nextEvent (s : State) : Event :=
  match s.agenda with
  | [] => .core
  | e :: _ => e

/-- The state with the next event taken off the agenda. -/
def afterFetch (s : State) : State := { s with agenda := s.agenda.tail }

/-- One host transaction: its operation, or the ignored write that changes nothing (30_encoding.md R75, R77). -/
def runRecord (r : Record) (s : State) : Host.Outcome State Fault Refusal :=
  match decodeHost r with
  | .instr i => exec i s
  | .reject _ => .next s

/-- The sequencer's turn: the micro-operation its selector names; where no step is enabled nothing happens
(30_encoding.md R78, R79). -/
def sequencerTurn (s : State) : Host.Outcome State Fault Refusal :=
  match usel s with
  | some u =>
    match decodeUsel u with
    | .instr i => exec i s
    | .reject _ => .next s
  | none => .next s

/-- One event (00_scope.md R10, 44_driver_host.md R174). -/
def runEvent (e : Event) (s : State) : Host.Outcome State Fault Refusal :=
  match e with
  | .txn r => runRecord r s
  | .reset => .next (resetEvent s)
  | .place a v => .next (placeByte a.toNat v s)
  | .core => sequencerTurn s

/-- The state with an operation's words where the next step takes them: a record at the head of the agenda, or the position
of the selector and the sequencer's turn (30_encoding.md R70, R79; log entry 13). -/
def placeCode (c : Code) (s : State) : State :=
  match c with
  | .host r => { s with agenda := .txn r :: s.agenda }
  | .usel u => { positionFor u s with agenda := .core :: s.agenda }

end Sys2Proof.Machine
end

