-- ==== Sys2Proof/Machine/Step.lean ====
section
/-! DEFINITION. One atomic step of one agent (00_scope.md R10), and placing an operation before the next step. -/

namespace Sys2Proof.Machine

/-- One step: the next event, on the state without it in the agenda. -/
def step (s : State) : Host.Outcome State Fault Refusal := runEvent (nextEvent s) (afterFetch s)

/-- The state whose very next step runs the table's word `w` of `nbits` bits (log entry 13). -/
def State.withFetchWord (s : State) (nbits w : Nat) : State :=
  match codeOfTableWord nbits w with
  | some c => placeCode c s
  | none => s

end Sys2Proof.Machine
end

