-- ==== Sys2Proof/Machine/Digest.lean ====
section
/-! DEFINITION. The function the block computes, without the machine: the padded message, the words of a block, the 80-entry
schedule, the block function, the digest (41_padding_endianness.md R111, R119; 42_schedule.md R130; 43_compression.md R147;
44_driver_host.md R168, R169). Statements compare the machine with these. -/

namespace Sys2Proof.Machine

/-- The PaddedMessage: the message, `0x80`, zero bytes, the 64-bit big-endian bit length (41_padding_endianness.md R111). -/
def paddedMessage (m : List Byte) : List Byte :=
  m ++ [0x80#8] ++ List.replicate (paddedLen m.length - m.length - 9) 0x00#8 ++ (List.range 8).map (lengthByte m.length)

/-- Byte `p[j]` of the PaddedMessage (41_padding_endianness.md R111). -/
def paddedByte (m : List Byte) (j : Nat) : Byte := (paddedMessage m).getD j 0

/-- `M(n, i)`: word `i` of block `n` (41_padding_endianness.md R119). -/
def blockWord (m : List Byte) (n i : Nat) : Word :=
  be32 (paddedByte m (64 * n + 4 * i)) (paddedByte m (64 * n + 4 * i + 1))
    (paddedByte m (64 * n + 4 * i + 2)) (paddedByte m (64 * n + 4 * i + 3))

/-- The sixteen words of block `n` (41_padding_endianness.md R119). -/
def block (m : List Byte) (n : Nat) : Vector Word 16 := Vector.ofFn (fun i : Fin 16 => blockWord m n i.val)

/-- The schedule's next entry after the entries `w`: rotated `w[i-3] xor w[i-8] xor w[i-14] xor w[i-16]` (42_schedule.md
R130). -/
def nextEntry (w : List Word) : Word :=
  let i := w.length
  rotl32 (w.getD (i - 3) 0 ^^^ w.getD (i - 8) 0 ^^^ w.getD (i - 14) 0 ^^^ w.getD (i - 16) 0) 1

/-- The first `16 + k` entries of the schedule of the block `M` (42_schedule.md R130). -/
def scheduleTo (M : Vector Word 16) : Nat → List Word
  | 0 => M.toList
  | k + 1 => scheduleTo M k ++ [nextEntry (scheduleTo M k)]

/-- The schedule `w[0..79]` of the block `M` (42_schedule.md R130). -/
def schedule (M : Vector Word 16) : List Word := scheduleTo M 64

/-- Entry `w[i]` of the schedule of the block `M` (42_schedule.md R130). -/
def schedEntry (M : Vector Word 16) (i : Nat) : Word := (schedule M).getD i 0

/-- The quarter of round `i`, `0 <= i <= 79` (40_primitives.md R93). -/
def roundQuarter (i : Nat) : Fin 4 := Fin.ofNat 4 (quarter i)

/-- The working variables after the first `k` rounds over the schedule entries `w` (43_compression.md R147). -/
def rounds (w : Nat → Word) : Nat → Work → Work
  | 0, v => v
  | k + 1, v => roundWork (roundQuarter k) (rounds w k v) (w k)

/-- `Compress(H, M)`, the block function (43_compression.md R147). -/
def compress (H : Vector Word 5) (M : Vector Word 16) : Vector Word 5 :=
  foldH H (rounds (schedEntry M) 80 (seedWork H))

/-- The state after the first `n` blocks of the message, in order (44_driver_host.md R169). -/
def hashBlocks (m : List Byte) : Nat → Vector Word 5
  | 0 => initialH
  | n + 1 => compress (hashBlocks m n) (block m n)

/-- The state after all blocks of the message (44_driver_host.md R169). -/
def sha1State (m : List Byte) : Vector Word 5 := hashBlocks m (nblk m.length)

/-- The four bytes of a word, most significant first (44_driver_host.md R168). -/
def wordBytes (x : Word) : List Byte :=
  [x.extractLsb' 24 8, x.extractLsb' 16 8, x.extractLsb' 8 8, x.extractLsb' 0 8]

/-- The digest `D` of the state `H` (44_driver_host.md R168). -/
def digestBytes (H : Vector Word 5) : List Byte := H.toList.flatMap wordBytes

/-- `SHA1(m)`, the document's `sha1_digest` (44_driver_host.md R169). -/
def sha1 (m : List Byte) : List Byte := digestBytes (sha1State m)

end Sys2Proof.Machine
end

