-- ==== Sys2Proof/Machine/Script.lean ====
section
/-! DEFINITION. The host script lines and the pseudo-operations as events of the agenda (30_encoding.md R81). -/

namespace Sys2Proof.Machine

/-- `WR n, v` (30_encoding.md R81). -/
def scriptWr (r : Reg) (v : Word) : Event := .txn (makeRecord true (regNumber r) v)

/-- `RD n` (30_encoding.md R81). -/
def scriptRd (r : Reg) : Event := .txn (makeRecord false (regNumber r) 0)

/-- `START`, which is `WR CTRL, 1` (30_encoding.md R81). -/
def scriptStart : Event := scriptWr .ctrl 1

/-- `NOP`, which is `WR CTRL, 0` (30_encoding.md R81). -/
def scriptNop : Event := scriptWr .ctrl 0

/-- `WRLEN L` (30_encoding.md R81). -/
def scriptWrlen (L : Nat) : List Event :=
  [scriptWr .lenLo (BitVec.ofNat 32 (L % 2 ^ 32)), scriptWr .lenHi (BitVec.ofNat 32 (L / 2 ^ 32))]

/-- `RDDIGEST` (30_encoding.md R81). -/
def scriptRddigest : List Event := [0, 1, 2, 3, 4].map (fun i => scriptRd (.digest i))

/-- `POLL` that reads `STATUS` after every `gap` turns of the sequencer, `reads` times (30_encoding.md R81). -/
def scriptPoll (gap : Nat) : Nat → List Event
  | 0 => []
  | reads + 1 => List.replicate gap .core ++ [scriptRd .status] ++ scriptPoll gap reads

/-- `SHA1 L` up to the end of its `POLL` (30_encoding.md R81, 44_driver_host.md R170). -/
def scriptSha1 (L gap reads : Nat) : List Event := scriptWrlen L ++ [scriptStart] ++ scriptPoll gap reads

end Sys2Proof.Machine
end

