-- ==== Sys2Proof/Safety.lean ====
section
/-! DEFINITION. What holds in every reachable state, and what a run on a message is: the terms the statements use
(10_state.md R26, R27, R29; 42_schedule.md R133; 44_driver_host.md R170 to R174). -/

namespace Sys2Proof.Machine

/-- The values of `t` in each phase (10_state.md R26, R27; 44_driver_host.md R171). The reserved phases are out. -/
def positionOk (s : State) : Bool :=
  match s.phase with
  | .idle => true
  | .load => decide (s.t.toNat ≤ 15)
  | .seed => decide (s.t.toNat = 15)
  | .round => decide (s.t.toNat ≤ 79)
  | .fold => decide (s.t.toNat = 79)
  | .reserved5 => false
  | .reserved6 => false
  | .reserved7 => false

/-- The invariant of reachable states (10_state.md R26, R27, R29). -/
structure Inv (s : State) : Prop where
  busy_iff : s.BUSY = true ↔ s.phase ≠ .idle                      -- R29
  flags    : (s.BUSY && s.DONE) = false ∧ (s.BUSY && s.ERR) = false ∧ (s.DONE && s.ERR) = false  -- R29: at most one
  position : positionOk s = true                                  -- R26, R27
  length   : s.BUSY = true → s.LEN.toNat < lengthBound            -- R24, R161
  block    : s.BUSY = true → s.blk.toNat < nblk s.LEN.toNat       -- R26
  memory   : s.MSG.wf = true                                       -- the canonical form of MSG

/-- What the core reads in the message space is the message `m`, and `LEN` is its length (20_memory.md R51, R60). -/
def ReadsMessage (s : State) (m : List Byte) : Prop :=
  s.LEN.toNat = m.length ∧ ∀ j (h : j < m.length), msgRead s j = some m[j]

/-- The host has placed the message `m`, and `LEN` is its length (44_driver_host.md R170 (1), (2)). -/
def HasMessage (s : State) (m : List Byte) : Prop :=
  s.LEN.toNat = m.length ∧ ∀ j (h : j < m.length), s.MSG.read j = some m[j]

/-- The buffer holds the 16 most recent schedule entries before round `t`, each in its slot (42_schedule.md R133). -/
def RollingWindow (W : Vector Word 16) (w : Nat → Word) (t : Nat) : Prop :=
  ∀ i, max t 16 - 16 ≤ i → i < max t 16 → slotRead W i = w i

/-- The datapath within block `blk` of the message `m`, phase by phase (41_padding_endianness.md R118; 42_schedule.md R133;
43_compression.md R147). -/
def blockProgress (m : List Byte) (s : State) : Prop :=
  match s.phase with
  | .load => s.t.toNat ≤ 15 ∧ ∀ i < s.t.toNat, slotRead s.W i = blockWord m s.blk.toNat i
  | .seed => s.t.toNat = 15 ∧ ∀ i < 16, slotRead s.W i = blockWord m s.blk.toNat i
  | .round => s.t.toNat ≤ 79 ∧ RollingWindow s.W (schedEntry (block m s.blk.toNat)) s.t.toNat ∧
      s.wv = rounds (schedEntry (block m s.blk.toNat)) s.t.toNat (seedWork s.H)
  | .fold => s.t.toNat = 79 ∧ s.wv = rounds (schedEntry (block m s.blk.toNat)) 80 (seedWork s.H)
  | .idle => False
  | .reserved5 => False
  | .reserved6 => False
  | .reserved7 => False

/-- A run on the message `m` is in progress and on its way: `H` is the state after the blocks before `blk`, and the
datapath stands where the position says (44_driver_host.md R169, R171). -/
structure OnRun (m : List Byte) (s : State) : Prop where
  message  : ReadsMessage s m
  legal    : m.length < lengthBound
  flags    : s.BUSY = true ∧ s.DONE = false ∧ s.ERR = false
  block    : s.blk.toNat < nblk m.length
  blocks   : s.H = hashBlocks m s.blk.toNat
  progress : blockProgress m s

/-- The run on the message `m` has ended: `STATUS` reads 2 and `H` holds its digest (10_state.md R29, 44_driver_host.md
R173). -/
structure HoldsDigest (m : List Byte) (s : State) : Prop where
  flags  : s.BUSY = false ∧ s.DONE = true ∧ s.ERR = false
  idle   : s.phase = .idle
  digest : s.H = sha1State m

/-- The events that may disturb a run on a message of `L` bytes: reset, and placing one of its bytes (44_driver_host.md R174,
NoReset and the host's message obligation). -/
def disturbs (L : Nat) : Event → Bool
  | .reset => true
  | .place a _ => decide (a.toNat < L)
  | .txn _ => false
  | .core => false

/-- The events that end the validity of a digest: reset, and START (10_state.md R25, 70_reset_and_hazards.md R205). -/
def discards : Event → Bool
  | .reset => true
  | .txn r => decide (decodeHost r = .instr .start)
  | .place _ _ => false
  | .core => false

/-- The next event is a START (30_encoding.md R75). -/
def startNext (s : State) : Prop := ∃ r, nextEvent s = .txn r ∧ decodeHost r = .instr .start

/-- The bits of a record that its operation depends on: the mask of its row of 30_encoding.md R74 and the bits of its
fields. -/
def careBits : Instr → Record
  | .start => 0x1F00000001
  | .nop => 0x1F00000001
  | .wrlenlo _ => 0x1FFFFFFFFF
  | .wrlenhi _ => 0x1FFFFFFFFF
  | .rdreg _ => 0x1F00000000
  | .loadw => 0
  | .seed => 0
  | .rnd0 => 0
  | .rnd1 => 0
  | .rnd2 => 0
  | .rnd3 => 0
  | .fold => 0

/-- The three flags are unchanged. -/
def SameFlags (s t : State) : Prop := t.BUSY = s.BUSY ∧ t.DONE = s.DONE ∧ t.ERR = s.ERR

/-- The sequencer position is unchanged. -/
def SamePosition (s t : State) : Prop := t.phase = s.phase ∧ t.blk = s.blk ∧ t.t = s.t

/-- Every byte of the message space reads as before, to the host and to the core. -/
def SameMessage (s t : State) : Prop := ∀ a, t.MSG.read a = s.MSG.read a ∧ msgRead t a = msgRead s a

/-- What stands around the core is unchanged: the configuration, the agenda, the value last returned to the host and the
count of free draws. -/
def SameAround (s t : State) : Prop :=
  t.hostLE = s.hostLE ∧ t.agenda = s.agenda ∧ t.reply = s.reply ∧ t.draws = s.draws

/-- All the state the spec gives the core is unchanged (10_state.md R20), and so is the message space. -/
def SameCore (s t : State) : Prop :=
  t.H = s.H ∧ t.wv = s.wv ∧ t.W = s.W ∧ t.LEN = s.LEN ∧ SamePosition s t ∧ SameFlags s t ∧ SameMessage s t

/-- What `SchedStep(t)` does: `wt` is the entry it returns, `W'` the buffer after it (42_schedule.md R132). -/
def SchedEffect (W : Vector Word 16) (t : Nat) (wt : Word) (W' : Vector Word 16) : Prop :=
  (t ≤ 15 → wt = slotRead W t ∧ W' = W) ∧
  (16 ≤ t →
    wt = (slotRead W (t - 3) ^^^ slotRead W (t - 8) ^^^ slotRead W (t - 14) ^^^ slotRead W t).rotateLeft 1 ∧
    slotRead W' t = wt ∧ ∀ i < 16, i ≠ t % 16 → slotRead W' i = slotRead W i)

/-- What every round leaves unchanged, and where it goes: the next round, or FOLD after round 79 (43_compression.md R141). -/
def RoundFrame (s s' : State) : Prop :=
  s'.H = s.H ∧ s'.LEN = s.LEN ∧ s'.blk = s.blk ∧ SameFlags s s' ∧ SameMessage s s' ∧ SameAround s s' ∧
  (s.t.toNat < 79 → s'.phase = .round ∧ s'.t.toNat = s.t.toNat + 1) ∧
  (s.t.toNat = 79 → s'.phase = .fold ∧ s'.t = s.t)

/-- One round with round function value `f` and constant `K`, the schedule entry taken from the buffer (43_compression.md
R141). -/
def RoundEffect (f K : Word) (s s' : State) : Prop :=
  ∃ wt, SchedEffect s.W s.t.toNat wt s'.W ∧
    s'.wv.a = s.wv.a.rotateLeft 5 + s.wv.e + f + K + wt ∧
    s'.wv.b = s.wv.a ∧ s'.wv.c = s.wv.b.rotateLeft 30 ∧ s'.wv.d = s.wv.c ∧ s'.wv.e = s.wv.d

end Sys2Proof.Machine
end

