-- ==== Sys2Proof/Certificates/Slice0/Obligations.lean ====
section
/-! DEFINITION. The statements for the provers, file by file of spec/. Each docstring names the rule it formalises. The premise
`busy s = false` is `BUSY = 0` outside the reserved phases; those have the last statement, with log entry 14. -/

open Sys2Proof Sys2Proof.Machine

/-! ## Encodings (30_encoding.md) -/

/-- R74, R75, R79: the words of a well-formed operation decode to it, with every operand at every value. -/
def Obligations.DecodeOfEncodeIsTheInstruction : Prop :=
  ∀ i : Instr, i.wf = true → decode (encode i) = .instr i

/-- R74: what either decoder answers is a well-formed operation; a record never gives a micro-operation and a selector never
a host transaction. -/
def Obligations.DecodedInstructionIsWellFormed : Prop :=
  (∀ c i, decode c = .instr i → i.wf = true) ∧
  (∀ r i, decodeHost r = .instr i → ∃ r', encode i = .host r') ∧
  (∀ u i, decodeUsel u = .instr i → ∃ u', encode i = .usel u')

/-- R74: decoding loses exactly the bits the table marks `x`. -/
def Obligations.EncodeOfDecodeKeepsTheCareBits : Prop :=
  (∀ (r : Record) (i : Instr), decodeHost r = .instr i → encode i = .host (r &&& careBits i)) ∧
  (∀ (u : Selector) (i : Instr), decodeUsel u = .instr i → encode i = .usel u)

/-- R75 and the register numbers of R30: every record has one meaning. -/
def Obligations.EveryRecordHasOneMeaning : Prop :=
  (∀ r : Record, ∃ d n v, r = makeRecord d n v) ∧
  (∀ (d : Bool) (n : BitVec 4) (v : Word), decodeHost (makeRecord d n v) =
    if d = false then .instr (.rdreg (regOfNumber n))
    else if n = 0 then (if v.getLsbD 0 = true then .instr .start else .instr .nop)
    else if n = 2 then .instr (.wrlenlo v)
    else if n = 3 then .instr (.wrlenhi v)
    else .reject (.ignoredWrite (regOfNumber n))) ∧
  (∀ n : BitVec 4, regOfNumber n =
    if n = 0 then .ctrl else if n = 1 then .status else if n = 2 then .lenLo else if n = 3 then .lenHi
    else if h : n.toNat - 4 < 5 then .digest ⟨n.toNat - 4, h⟩ else .reserved n.toNat)

/-- R72, R74, R78, R79: the selector is `4 * phase + q`, and each of its values is the row of the table or no step. -/
def Obligations.SelectorNamesTheEnabledStep : Prop :=
  (∀ s : State, (s.phase = .round → s.t.toNat ≤ 79) → ∃ u, usel s = some u ∧
    u.toNat = 4 * (phaseCode s.phase).toNat + (if s.phase = .round then s.t.toNat / 20 else 0)) ∧
  (∀ u : Selector, decodeUsel u =
    if u.toNat = 0 then .reject .idleSelector
    else if u.toNat = 0x04 then .instr .loadw
    else if u.toNat = 0x08 then .instr .seed
    else if u.toNat = 0x0C then .instr .rnd0
    else if u.toNat = 0x0D then .instr .rnd1
    else if u.toNat = 0x0E then .instr .rnd2
    else if u.toNat = 0x0F then .instr .rnd3
    else if u.toNat = 0x10 then .instr .fold
    else .reject (.reservedSelector u))

/-- R74 and the records of 95_test_vectors.md P1 to P4: words of the spec and what they stand for (a sanity statement). -/
def Obligations.WordsOfTheSpecDecode : Prop :=
  decodeTableWord 40 0x1200000003 = some (.wrlenlo 3) ∧
  decodeTableWord 40 0x1320000000 = some (.wrlenhi 0x20000000) ∧
  decodeTableWord 40 0x1000000001 = some .start ∧
  decodeTableWord 40 0x10FFFFFFFE = some .nop ∧
  decodeTableWord 40 0x0800000000 = some (.rdreg (.digest 4)) ∧
  decodeTableWord 8 0b00100 = some .loadw ∧
  decodeTableWord 8 0b01110 = some .rnd2 ∧
  decodeTableWord 8 0b10000 = some .fold

/-! ## Steps (00_scope.md R10, 30_encoding.md R75 to R79) -/

/-- R10, R75, R77: a host transaction at the head of the agenda runs its operation on the state without it; an ignored write
changes nothing. -/
def Obligations.StepRunsTheDecodedTransaction : Prop :=
  ∀ (s : State) (r : Record) (rest : List Event), s.agenda = .txn r :: rest →
    (∀ i, decodeHost r = .instr i → step s = exec i { s with agenda := rest }) ∧
    (∀ x, decodeHost r = .reject x → step s = .next { s with agenda := rest })

/-- R10, R78, R79: on the sequencer's turn the micro-operation of the selector runs; where no step is enabled nothing happens.
The model's choices: that an empty agenda is the sequencer's turn (log entry 2, DESIGN CHOICE), and that a state without a
selector (ROUND with `t > 79`) has no enabled step (log entry 10, DEDUCED). -/
def Obligations.StepRunsTheSelectedMicroOperation : Prop :=
  ∀ (s : State) (rest : List Event), (s.agenda = .core :: rest ∨ (s.agenda = [] ∧ rest = [])) →
    (∀ u i, usel s = some u → decodeUsel u = .instr i → step s = exec i { s with agenda := rest }) ∧
    (∀ u x, usel s = some u → decodeUsel u = .reject x → step s = .next { s with agenda := rest }) ∧
    (usel s = none → step s = .next { s with agenda := rest })

/-- The model's choice (log entry 13): a placed operation is the next one run, and placing it moves nothing but the position
and the agenda. -/
def Obligations.PlacedWordIsTheNextInstruction : Prop :=
  ∀ (s : State) (nbits w : Nat) (i : Instr), decodeTableWord nbits w = some i →
    ∃ s', step (s.withFetchWord nbits w) = exec i s' ∧ { s' with phase := s.phase, t := s.t } = s ∧
      exec i s' ≠ .fault .notEnabled ∧ exec i s' ≠ .fault .noSlot

/-- R77: a write to a read-only or reserved register changes no state, and no host transaction is illegal. -/
def Obligations.IgnoredWritesChangeNothing : Prop :=
  (∀ (s : State) (n : BitVec 4) (v : Word) (rest : List Event), (n = 1 ∨ 4 ≤ n.toNat) →
    s.agenda = .txn (makeRecord true n v) :: rest → step s = .next { s with agenda := rest }) ∧
  (∀ (s : State) (r : Record) (rest : List Event), s.agenda = .txn r :: rest → ∃ s', step s = .next s')

/-! ## Invariants (10_state.md R20 to R29) -/

/-- R26, R27, R29 at reset. -/
def Obligations.InvariantHoldsAtReset : Prop := Inv State.reset

/-- R26, R27, R29 and the canonical form of the message space: every step, of either agent, keeps the invariant. -/
def Obligations.EveryStepKeepsTheInvariant : Prop :=
  ∀ s s' : State, Inv s → step s = .next s' → Inv s'

/-- R181: from a state that meets the invariant no step faults or is refused. -/
def Obligations.NoStepFromTheInvariantStops : Prop :=
  ∀ s : State, Inv s → ∃ s', step s = .next s'

/-- R53: only the host's placing of a byte changes the message space, at that address alone. -/
def Obligations.OnlyTheHostWritesTheMessageSpace : Prop :=
  ∀ s s' : State, step s = .next s' →
    ((∀ a v, nextEvent s ≠ .place a v) → s'.MSG = s.MSG) ∧
    (∀ a v, nextEvent s = .place a v → s'.MSG.read a.toNat = some v ∧
      ∀ x, x ≠ a.toNat → s'.MSG.read x = s.MSG.read x)

/-- R52, R60: after the host places byte `v` at `a`, the core reads there `v`, or, where a run is in progress and the address
is one of its message (log entry 7), a value it could read before; without such a race it reads `v`; every other address
reads as before. -/
def Obligations.PlacedByteIsReadOrRaces : Prop :=
  ∀ (s : State) (a : BitVec 64) (v : Byte) (rest : List Event), s.agenda = .place a v :: rest →
    ∃ s', step s = .next s' ∧
      (msgRead s' a.toNat = some v ∨ msgRead s' a.toNat = s.MSG.read a.toNat ∨ msgRead s' a.toNat = msgRead s a.toNat) ∧
      (s.stale = [] → s.BUSY = false ∨ s.LEN.toNat ≤ a.toNat → msgRead s' a.toNat = some v) ∧
      (∀ x, x ≠ a.toNat → msgRead s' x = msgRead s x) ∧
      s'.H = s.H ∧ s'.wv = s.wv ∧ s'.W = s.W ∧ s'.LEN = s.LEN ∧ SamePosition s s' ∧ SameFlags s s' ∧
      s'.hostLE = s.hostLE ∧ s'.reply = s.reply ∧ s'.agenda = rest

/-- R7, R116: HOST_LE is configuration; no step of either agent changes it. -/
def Obligations.ConfigurationNeverChanges : Prop :=
  ∀ s s' : State, step s = .next s' → s'.hostLE = s.hostLE

/-- R24, R164: the length cannot change during a run. -/
def Obligations.LengthIsConstantDuringARun : Prop :=
  ∀ s s' : State, s.BUSY = true → nextEvent s ≠ .reset → step s = .next s' → s'.LEN = s.LEN

/-- R20, R21, R22, R23: which steps write `H`, `a..e` and `W`. That an accepted START is outside the reserved phases is log
entry 14. -/
def Obligations.DatapathIsWrittenOnlyByItsWriters : Prop :=
  ∀ s s' : State, step s = .next s' → nextEvent s ≠ .reset →
    (s'.H ≠ s.H → (startNext s ∧ busy s = false ∧ s.LEN.toNat < 2 ^ 61) ∨ (nextEvent s = .core ∧ s.phase = .fold)) ∧
    (s'.wv ≠ s.wv → nextEvent s = .core ∧ (s.phase = .seed ∨ s.phase = .round)) ∧
    (s'.W ≠ s.W → nextEvent s = .core ∧ (s.phase = .load ∨ (s.phase = .round ∧ 16 ≤ s.t.toNat)))

/-- R25, R184: which steps set and clear each flag. That a START not ignored is outside the reserved phases is log entry 14. -/
def Obligations.FlagsChangeOnlyByTheirWriters : Prop :=
  ∀ s s' : State, step s = .next s' → nextEvent s ≠ .reset →
    (s'.BUSY ≠ s.BUSY → (s'.BUSY = true ∧ startNext s ∧ busy s = false ∧ s.LEN.toNat < 2 ^ 61) ∨
      (s'.BUSY = false ∧ nextEvent s = .core ∧ s.phase = .fold ∧ s.blk.toNat + 1 = nblk s.LEN.toNat)) ∧
    (s'.DONE ≠ s.DONE → (s'.DONE = false ∧ startNext s ∧ busy s = false) ∨
      (s'.DONE = true ∧ nextEvent s = .core ∧ s.phase = .fold ∧ s.blk.toNat + 1 = nblk s.LEN.toNat)) ∧
    (s'.ERR ≠ s.ERR → startNext s ∧ busy s = false ∧ (s'.ERR = true ↔ 2 ^ 61 ≤ s.LEN.toNat))

/-- R26, R188: only an accepted START leaves `IDLE`. -/
def Obligations.OnlyAnAcceptedStartLeavesIdle : Prop :=
  ∀ s s' : State, s.phase = .idle → step s = .next s' → s'.phase ≠ .idle →
    startNext s ∧ s.BUSY = false ∧ s.LEN.toNat < 2 ^ 61 ∧ s'.phase = .load ∧ s'.blk = 0 ∧ s'.t = 0

/-! ## Reset (10_state.md R38, 70_reset_and_hazards.md R200, R201) -/

/-- R38, R200, R201: the values the spec gives after reset, in the reset state and after a reset event in any state; no
sequencer step is enabled; the message space is the host's and stays. -/
def Obligations.ResetLeavesTheControlState : Prop :=
  (State.reset.phase = .idle ∧ State.reset.BUSY = false ∧ State.reset.DONE = false ∧ State.reset.ERR = false ∧
    State.reset.LEN = 0) ∧
  ∀ (s : State) (rest : List Event), s.agenda = .reset :: rest → ∃ s', step s = .next s' ∧
    s'.phase = .idle ∧ s'.BUSY = false ∧ s'.DONE = false ∧ s'.ERR = false ∧ s'.LEN = 0 ∧
    (∀ a, s'.MSG.read a = s.MSG.read a) ∧ s'.hostLE = s.hostLE ∧ s'.reply = s.reply ∧ s'.agenda = rest ∧
    sequencerTurn s' = .next s'

/-! ## Host transactions (44_driver_host.md R161 to R166, 60_exceptions.md R183) -/

/-- R161: an accepted START. -/
def Obligations.AcceptedStartBeginsARun : Prop :=
  ∀ s : State, busy s = false → s.LEN.toNat < 2 ^ 61 → ∃ s', exec .start s = .next s' ∧
    s'.ERR = false ∧ s'.DONE = false ∧ s'.BUSY = true ∧
    s'.H[0] = 0x67452301#32 ∧ s'.H[1] = 0xEFCDAB89#32 ∧ s'.H[2] = 0x98BADCFE#32 ∧ s'.H[3] = 0x10325476#32 ∧
    s'.H[4] = 0xC3D2E1F0#32 ∧ s'.blk = 0 ∧ s'.t = 0 ∧ s'.phase = .load ∧
    s'.wv = s.wv ∧ s'.W = s.W ∧ s'.LEN = s.LEN ∧ (∀ a, s'.MSG.read a = s.MSG.read a) ∧ SameAround s s'

/-- R183: a START refused with InputTooLarge writes the two flags and nothing else, and enables no step of the sequencer. -/
def Obligations.RefusedStartRaisesInputTooLarge : Prop :=
  ∀ s : State, busy s = false → 2 ^ 61 ≤ s.LEN.toNat → ∃ s', exec .start s = .next s' ∧
    s'.ERR = true ∧ s'.DONE = false ∧ s'.BUSY = false ∧
    s'.H = s.H ∧ s'.wv = s.wv ∧ s'.W = s.W ∧ s'.LEN = s.LEN ∧ SamePosition s s' ∧ SameMessage s s' ∧ SameAround s s' ∧
    (s.phase = .idle → sequencerTurn s' = .next s')

/-- R162: a START while `BUSY = 1` is ignored, whatever `LEN` holds, and there is no abort: a run ends only by its last FOLD
or by reset. -/
def Obligations.StartWhileBusyIsIgnored : Prop :=
  (∀ s : State, s.BUSY = true → exec .start s = .next s) ∧
  (∀ s s' : State, s.BUSY = true → step s = .next s' → s'.BUSY = false → nextEvent s = .reset ∨
    (nextEvent s = .core ∧ s.phase = .fold ∧ s.blk.toNat + 1 = nblk s.LEN.toNat))

/-- R163, R76: NOP changes nothing, and every write to CTRL with bit 0 clear is a NOP. -/
def Obligations.NopChangesNothing : Prop :=
  (∀ s : State, exec .nop s = .next s) ∧
  (∀ (s : State) (v : Word) (rest : List Event), v.getLsbD 0 = false →
    s.agenda = .txn (makeRecord true 0 v) :: rest → step s = .next { s with agenda := rest })

/-- R164: each half of the length is written alone while `BUSY = 0`, and not at all while `BUSY = 1`. -/
def Obligations.LengthHalvesAreWritten : Prop :=
  ∀ (s : State) (v : Word),
    decodeHost (makeRecord true 2 v) = .instr (.wrlenlo v) ∧ decodeHost (makeRecord true 3 v) = .instr (.wrlenhi v) ∧
    (busy s = false → ∃ s', exec (.wrlenlo v) s = .next s' ∧
      s'.LEN.toNat = s.LEN.toNat / 2 ^ 32 * 2 ^ 32 + v.toNat ∧
      s'.H = s.H ∧ s'.wv = s.wv ∧ s'.W = s.W ∧ SamePosition s s' ∧ SameFlags s s' ∧ SameMessage s s' ∧ SameAround s s') ∧
    (busy s = false → ∃ s', exec (.wrlenhi v) s = .next s' ∧
      s'.LEN.toNat = v.toNat * 2 ^ 32 + s.LEN.toNat % 2 ^ 32 ∧
      s'.H = s.H ∧ s'.wv = s.wv ∧ s'.W = s.W ∧ SamePosition s s' ∧ SameFlags s s' ∧ SameMessage s s' ∧ SameAround s s') ∧
    (s.BUSY = true → exec (.wrlenlo v) s = .next s ∧ exec (.wrlenhi v) s = .next s)

/-- R166, R34: what every register read returns; a read changes no state of the core. While `DONE = 0` a digest register
reads as some value, whatever the free value is (log entry 6). `STATUS` in a reserved phase has
ReservedPhaseIsStuckUntilReset. -/
def Obligations.RegisterReadsReturnTheirContent : Prop :=
  (∀ (n : BitVec 4) (v : Word), decodeHost (makeRecord false n v) = .instr (.rdreg (regOfNumber n))) ∧
  ∀ (s : State) (r : Reg), ∃ s', exec (.rdreg r) s = .next s' ∧ SameCore s s' ∧
    s'.hostLE = s.hostLE ∧ s'.agenda = s.agenda ∧
    ∃ v, s'.reply = some v ∧
      (match r with
        | .ctrl => v = 0
        | .status => reservedPhase s.phase = false → v.toNat = 4 * s.ERR.toNat + 2 * s.DONE.toNat + s.BUSY.toNat
        | .lenLo => v.toNat = s.LEN.toNat % 2 ^ 32
        | .lenHi => v.toNat = s.LEN.toNat / 2 ^ 32
        | .digest i => s.DONE = true → v = s.H[i]
        | .reserved _ => v = 0)

/-- R29: in every state that meets the invariant, `STATUS` reads one of 0, 1, 2, 4. -/
def Obligations.StatusReadsZeroOneTwoOrFour : Prop :=
  ∀ s : State, Inv s → ∃ s', exec (.rdreg .status) s = .next s' ∧
    (s'.reply = some 0 ∨ s'.reply = some 1 ∨ s'.reply = some 2 ∨ s'.reply = some 4)

/-! ## LOADW (41_padding_endianness.md R118, 20_memory.md R52, R56) -/

/-- R118: LOADW puts word `t` of block `blk` of the padded message in slot `t`, and writes nothing else but the position. -/
def Obligations.LoadwLoadsTheBlockWord : Prop :=
  decodeUsel 0b00100#5 = .instr .loadw ∧ ∀ (s : State) (m : List Byte), s.phase = .load → s.t.toNat ≤ 15 → m.length < 2 ^ 61 →
    s.blk.toNat < nblk m.length → ReadsMessage s m →
    ∃ s', exec .loadw s = .next s' ∧
      slotRead s'.W s.t.toNat = blockWord m s.blk.toNat s.t.toNat ∧
      (∀ i < 16, i ≠ s.t.toNat → slotRead s'.W i = slotRead s.W i) ∧
      (s.t.toNat = 15 → s'.phase = .seed ∧ s'.t = s.t) ∧
      (s.t.toNat < 15 → s'.phase = .load ∧ s'.t.toNat = s.t.toNat + 1) ∧
      s'.H = s.H ∧ s'.wv = s.wv ∧ s'.LEN = s.LEN ∧ s'.blk = s.blk ∧ SameFlags s s' ∧ SameMessage s s' ∧ SameAround s s'

/-- R52, R118, as the model reads them (log entry 3, DEDUCED): an address with no byte placed is a port that does not answer,
and a LOADW that needs its byte answers the same state, which is the step that does not happen. -/
def Obligations.LoadwWaitsForTheMessagePort : Prop :=
  ∀ (s : State) (k : Nat), s.phase = .load → s.t.toNat ≤ 15 → s.LEN.toNat < 2 ^ 61 →
    s.blk.toNat < nblk s.LEN.toNat → k < 4 → 64 * s.blk.toNat + 4 * s.t.toNat + k < s.LEN.toNat →
    msgRead s (64 * s.blk.toNat + 4 * s.t.toNat + k) = none → exec .loadw s = .next s

/-- R56: a LOADW depends on the message space only at its addresses, and over a run those are `0, 1, ..., L-1`, each once
and in order. -/
def Obligations.MessageIsReadOnceInOrder : Prop :=
  (∀ (s s' : State) (M : Memory),
    (∀ a ∈ loadAddresses s.LEN.toNat s.blk.toNat s.t.toNat, Memory.read M a = s.MSG.read a) →
    exec .loadw s = .next s' → exec .loadw { s with MSG := M } = .next { s' with MSG := M }) ∧
  (∀ L : Nat, (List.range (nblk L)).flatMap (fun n => (List.range 16).flatMap (fun i => loadAddresses L n i)) =
    List.range L)

/-- R117: the host's byte order has no effect on the word a LOADW loads. -/
def Obligations.LoadwIgnoresTheHostByteOrder : Prop :=
  ∀ (s s' : State) (le : Bool), exec .loadw s = .next s' →
    exec .loadw { s with hostLE := le } = .next { s' with hostLE := le }

/-! ## SEED, the rounds, FOLD (43_compression.md R140 to R146) -/

/-- R140: SEED. -/
def Obligations.SeedCopiesTheState : Prop :=
  decodeUsel 0b01000#5 = .instr .seed ∧ ∀ s : State, s.phase = .seed → ∃ s', exec .seed s = .next s' ∧
    s'.wv.a = s.H[0] ∧ s'.wv.b = s.H[1] ∧ s'.wv.c = s.H[2] ∧ s'.wv.d = s.H[3] ∧ s'.wv.e = s.H[4] ∧
    s'.t = 0 ∧ s'.phase = .round ∧ s'.H = s.H ∧ s'.W = s.W ∧ s'.LEN = s.LEN ∧ s'.blk = s.blk ∧
    SameFlags s s' ∧ SameMessage s s' ∧ SameAround s s'

/-- R142 (R141 with `q = 0`), the round function in the textbook form of R98. -/
def Obligations.Rnd0IsARoundOfTheFirstQuarter : Prop :=
  decodeUsel 0b01100#5 = .instr .rnd0 ∧ ∀ s : State, s.phase = .round → s.t.toNat ≤ 19 → ∃ s', exec .rnd0 s = .next s' ∧ RoundFrame s s' ∧
    RoundEffect ((s.wv.b &&& s.wv.c) ||| (~~~s.wv.b &&& s.wv.d)) 0x5A827999#32 s s'

/-- R143 (R141 with `q = 1`). -/
def Obligations.Rnd1IsARoundOfTheSecondQuarter : Prop :=
  decodeUsel 0b01101#5 = .instr .rnd1 ∧ ∀ s : State, s.phase = .round → 20 ≤ s.t.toNat → s.t.toNat ≤ 39 → ∃ s', exec .rnd1 s = .next s' ∧ RoundFrame s s' ∧
    RoundEffect (s.wv.b ^^^ s.wv.c ^^^ s.wv.d) 0x6ED9EBA1#32 s s'

/-- R144 (R141 with `q = 2`), the round function in the textbook form of R98. -/
def Obligations.Rnd2IsARoundOfTheThirdQuarter : Prop :=
  decodeUsel 0b01110#5 = .instr .rnd2 ∧ ∀ s : State, s.phase = .round → 40 ≤ s.t.toNat → s.t.toNat ≤ 59 → ∃ s', exec .rnd2 s = .next s' ∧ RoundFrame s s' ∧
    RoundEffect ((s.wv.b &&& s.wv.c) ||| (s.wv.b &&& s.wv.d) ||| (s.wv.c &&& s.wv.d)) 0x8F1BBCDC#32 s s'

/-- R145 (R141 with `q = 3`). -/
def Obligations.Rnd3IsARoundOfTheFourthQuarter : Prop :=
  decodeUsel 0b01111#5 = .instr .rnd3 ∧ ∀ s : State, s.phase = .round → 60 ≤ s.t.toNat → s.t.toNat ≤ 79 → ∃ s', exec .rnd3 s = .next s' ∧ RoundFrame s s' ∧
    RoundEffect (s.wv.b ^^^ s.wv.c ^^^ s.wv.d) 0xCA62C1D6#32 s s'

/-- R146: FOLD adds the working variables to the state, and ends the run after the last block or goes on to the next. The
increment of `blk` is stated where `blk` is below its last value, as in every run (R26). -/
def Obligations.FoldAddsAndGoesOn : Prop :=
  decodeUsel 0b10000#5 = .instr .fold ∧ ∀ s : State, s.phase = .fold → ∃ s', exec .fold s = .next s' ∧
    s'.H[0] = s.H[0] + s.wv.a ∧ s'.H[1] = s.H[1] + s.wv.b ∧ s'.H[2] = s.H[2] + s.wv.c ∧ s'.H[3] = s.H[3] + s.wv.d ∧
    s'.H[4] = s.H[4] + s.wv.e ∧
    (s.blk.toNat + 1 = nblk s.LEN.toNat →
      s'.phase = .idle ∧ s'.BUSY = false ∧ s'.DONE = true ∧ s'.ERR = s.ERR ∧ s'.blk = s.blk ∧ s'.t = s.t) ∧
    (s.blk.toNat + 1 ≠ nblk s.LEN.toNat →
      s'.phase = .load ∧ s'.t = 0 ∧ SameFlags s s' ∧ (s.blk.toNat + 1 < 2 ^ 56 → s'.blk.toNat = s.blk.toNat + 1)) ∧
    s'.wv = s.wv ∧ s'.W = s.W ∧ s'.LEN = s.LEN ∧ SameMessage s s' ∧ SameAround s s'

/-- The model's choice (log entry 8): a micro-operation asked for where its rule does not enable it stops by name (R118, R140,
R141, R146 "Enabled when"). -/
def Obligations.MicroOperationsStopWhereNotEnabled : Prop :=
  ∀ s : State,
    (s.phase ≠ .load → exec .loadw s = .fault .notEnabled) ∧
    (s.phase ≠ .seed → exec .seed s = .fault .notEnabled) ∧
    (s.phase ≠ .fold → exec .fold s = .fault .notEnabled) ∧
    ((s.phase ≠ .round ∨ s.t.toNat / 20 ≠ 0) → exec .rnd0 s = .fault .notEnabled) ∧
    ((s.phase ≠ .round ∨ s.t.toNat / 20 ≠ 1) → exec .rnd1 s = .fault .notEnabled) ∧
    ((s.phase ≠ .round ∨ s.t.toNat / 20 ≠ 2) → exec .rnd2 s = .fault .notEnabled) ∧
    ((s.phase ≠ .round ∨ s.t.toNat / 20 ≠ 3) → exec .rnd3 s = .fault .notEnabled)

/-- R171: the next-position table, row by row, on the sequencer's turn where the port answers. -/
def Obligations.NextPositionTable : Prop :=
  ∀ s : State, Inv s → nextEvent s = .core → (s.phase = .load → loadWord s ≠ none) →
    ∃ s', step s = .next s' ∧
      (s.phase = .idle → SamePosition s s') ∧
      (s.phase = .load → s.t.toNat < 15 → s'.phase = .load ∧ s'.blk = s.blk ∧ s'.t.toNat = s.t.toNat + 1) ∧
      (s.phase = .load → s.t.toNat = 15 → s'.phase = .seed ∧ s'.blk = s.blk ∧ s'.t.toNat = 15) ∧
      (s.phase = .seed → s'.phase = .round ∧ s'.blk = s.blk ∧ s'.t.toNat = 0) ∧
      (s.phase = .round → s.t.toNat < 79 → s'.phase = .round ∧ s'.blk = s.blk ∧ s'.t.toNat = s.t.toNat + 1) ∧
      (s.phase = .round → s.t.toNat = 79 → s'.phase = .fold ∧ s'.blk = s.blk ∧ s'.t.toNat = 79) ∧
      (s.phase = .fold → s.blk.toNat + 1 < nblk s.LEN.toNat →
        s'.phase = .load ∧ s'.blk.toNat = s.blk.toNat + 1 ∧ s'.t.toNat = 0 ∧ s'.BUSY = true) ∧
      (s.phase = .fold → s.blk.toNat + 1 = nblk s.LEN.toNat →
        s'.phase = .idle ∧ s'.blk = s.blk ∧ s'.t.toNat = 79 ∧ s'.BUSY = false ∧ s'.DONE = true)

/-! ## Primitives (40_primitives.md R91 to R98) -/

/-- R91: bit `i` of `x` becomes bit `(i + n) mod 32`; rotating by `32 - n` undoes a rotation by `n`. -/
def Obligations.RotationMovesEachBit : Prop :=
  (∀ (x : Word) (n : Fin 32) (i : Nat), i < 32 → (rotl32 x n).getLsbD ((i + n.val) % 32) = x.getLsbD i) ∧
  (∀ (x : Word) (n : Nat) (h : 1 ≤ n) (h' : n ≤ 31), rotl32 (rotl32 x ⟨n, by omega⟩) ⟨32 - n, by omega⟩ = x)

/-- R92: byte `k` of the swapped word is byte `3 - k` of the operand, and the swap is its own inverse. -/
def Obligations.ByteSwapReversesTheBytes : Prop :=
  ∀ x : Word, (∀ k < 4, (bswap32 x).extractLsb' (8 * k) 8 = x.extractLsb' (8 * (3 - k)) 8) ∧ bswap32 (bswap32 x) = x

/-- R98: the optimised forms equal the textbook forms, and every round function has its truth table. -/
def Obligations.RoundFunctionsMatchTheTextbookForms : Prop :=
  ∀ b c d : Word,
    f0 b c d = ((b &&& c) ||| (~~~b &&& d)) ∧
    f2 b c d = ((b &&& c) ||| (b &&& d) ||| (c &&& d)) ∧
    ∀ i < 32,
      (f0 b c d).getLsbD i = (if b.getLsbD i then c.getLsbD i else d.getLsbD i) ∧
      (f1 b c d).getLsbD i = ((b.getLsbD i).toNat + (c.getLsbD i).toNat + (d.getLsbD i).toNat == 1 ||
        (b.getLsbD i).toNat + (c.getLsbD i).toNat + (d.getLsbD i).toNat == 3) ∧
      (f2 b c d).getLsbD i = decide (2 ≤ (b.getLsbD i).toNat + (c.getLsbD i).toNat + (d.getLsbD i).toNat) ∧
      (f3 b c d).getLsbD i = (f1 b c d).getLsbD i

/-! ## Padding and the adapter (41_padding_endianness.md R110 to R119) -/

/-- R110, R113: the padded length is the smallest multiple of 64 that is at least `L + 9`; the counters fit their widths. -/
def Obligations.PaddedLengthIsTheLeastMultiple : Prop :=
  ∀ L : Nat, L < 2 ^ 61 →
    paddedLen L % 64 = 0 ∧ L + 9 ≤ paddedLen L ∧ paddedLen L ≤ L + 72 ∧
    (∀ P, P % 64 = 0 → L + 9 ≤ P → paddedLen L ≤ P) ∧ nblk L ≤ 2 ^ 55 + 1 ∧ (L % 64 = 56 → nblk L = L / 64 + 2)

/-- R111, R112: the padded message has `P` bytes, and `PadByte(j)` is its byte `j`. -/
def Obligations.PadByteIsTheBytePadded : Prop :=
  ∀ m : List Byte, m.length < 2 ^ 61 →
    (paddedMessage m).length = paddedLen m.length ∧
    ∀ j < paddedLen m.length, padByte m.length (fun a => m[a]?) j = some (paddedByte m j)

/-- R117, which the spec derives from R92, R114, R115 and R116: the lane and the adapter give the big-endian word for both byte
orders; the value of that word is R114's. -/
def Obligations.AdapterGivesTheBigEndianWord : Prop :=
  ∀ (b0 b1 b2 b3 : Byte) (le : Bool),
    adapt (packHost b0 b1 b2 b3 le) le = be32 b0 b1 b2 b3 ∧
    (be32 b0 b1 b2 b3).toNat = b0.toNat * 2 ^ 24 + b1.toNat * 2 ^ 16 + b2.toNat * 2 ^ 8 + b3.toNat

/-- R119: the last two words of the last block are the bit length. -/
def Obligations.LastTwoWordsAreTheBitLength : Prop :=
  ∀ m : List Byte, m.length < 2 ^ 61 →
    (blockWord m (nblk m.length - 1) 14).toNat = 8 * m.length / 2 ^ 32 ∧
    (blockWord m (nblk m.length - 1) 15).toNat = 8 * m.length % 2 ^ 32

/-! ## Schedule (42_schedule.md R130 to R135) -/

/-- R130: the schedule's entries. -/
def Obligations.ScheduleFollowsItsRecurrence : Prop :=
  ∀ M : Vector Word 16,
    (schedule M).length = 80 ∧
    (∀ (i : Nat) (h : i < 16), schedEntry M i = M[i]) ∧
    (∀ i, 16 ≤ i → i < 80 → schedEntry M i =
      (schedEntry M (i - 3) ^^^ schedEntry M (i - 8) ^^^ schedEntry M (i - 14) ^^^ schedEntry M (i - 16)).rotateLeft 1)

/-- R133, R134: before round 0 the buffer holds the block; `SchedStep(t)` returns `w[t]` and keeps the window; after round 79
slot `i` holds `w[64 + i]` (R135 (c)). -/
def Obligations.RollingBufferHoldsTheWindow : Prop :=
  ∀ M : Vector Word 16,
    RollingWindow M (schedEntry M) 0 ∧
    (∀ (W : Vector Word 16) (t : Nat), t ≤ 79 → RollingWindow W (schedEntry M) t →
      schedWord W t = schedEntry M t ∧ RollingWindow (schedBuffer W t) (schedEntry M) (t + 1)) ∧
    (∀ W : Vector Word 16, RollingWindow W (schedEntry M) 80 → ∀ i < 16, slotRead W i = schedEntry M (64 + i))

/-! ## The block function, the digest, the run (43_compression.md R147, R148; 44_driver_host.md R168 to R174) -/

/-- R148: after round `t >= 4` the working variables are the last five values of `a`. -/
def Obligations.WorkingVariablesAreTheLastFiveValuesOfA : Prop :=
  ∀ (w : Nat → Word) (v : Work) (t : Nat), 4 ≤ t →
    (rounds w (t + 1) v).b = (rounds w t v).a ∧
    (rounds w (t + 1) v).c = ((rounds w (t - 1) v).a).rotateLeft 30 ∧
    (rounds w (t + 1) v).d = ((rounds w (t - 2) v).a).rotateLeft 30 ∧
    (rounds w (t + 1) v).e = ((rounds w (t - 3) v).a).rotateLeft 30

/-- R168: the digest is 20 bytes, each word of `H` most significant byte first. -/
def Obligations.DigestIsTwentyBytesBigEndian : Prop :=
  ∀ H : Vector Word 5, (digestBytes H).length = 20 ∧
    ∀ (i k : Nat) (h : i < 5), k < 4 → (digestBytes H)[4 * i + k]? = some (H[i].extractLsb' (24 - 8 * k) 8)

/-- R147: from the first LOADW of a block, 98 turns of the sequencer fold the block into `H`, whatever `H` was; nothing the
host owns changes. -/
def Obligations.BlockOfStepsIsCompress : Prop :=
  ∀ (s : State) (m : List Byte), s.agenda = [] → s.phase = .load → s.t = 0 → m.length < 2 ^ 61 →
    s.blk.toNat < nblk m.length → ReadsMessage s m →
    ∃ s' : State, Host.Core.run core 98 s = .next s' ∧ s'.H = compress s.H (block m s.blk.toNat) ∧
      (s.blk.toNat + 1 < nblk m.length → s'.phase = .load ∧ s'.blk.toNat = s.blk.toNat + 1 ∧ s'.t = 0 ∧ SameFlags s s') ∧
      (s.blk.toNat + 1 = nblk m.length → s'.phase = .idle ∧ s'.BUSY = false ∧ s'.DONE = true ∧ s'.ERR = s.ERR) ∧
      s'.LEN = s.LEN ∧ SameMessage s s' ∧ SameAround s s'

/-- R161, R170, R174: a START with the message in place enters the run on that message, whatever else the state holds. -/
def Obligations.StartEntersTheRun : Prop :=
  ∀ (s : State) (m : List Byte), busy s = false → m.length < 2 ^ 61 → HasMessage s m →
    ∃ s', exec .start s = .next s' ∧ OnRun m s'

/-- R10, R162, R164, R171, R174: every step of either agent that neither resets nor places a byte of the message keeps the
run on its way or ends it with the digest, in any interleaving. -/
def Obligations.EveryStepKeepsTheRunOnItsWay : Prop :=
  ∀ (s : State) (m : List Byte), OnRun m s → disturbs m.length (nextEvent s) = false →
    ∃ s', step s = .next s' ∧ (OnRun m s' ∨ HoldsDigest m s')

/-- R169, R170, R171: after an accepted START on the message `m`, exactly `98 * NBLK` turns of the sequencer end the run with
the digest of `m`, and the message is still there. -/
def Obligations.RunEndsWithTheDigest : Prop :=
  ∀ (s : State) (m : List Byte), busy s = false → s.agenda = [] → m.length < 2 ^ 61 → HasMessage s m →
    ∃ s0, exec .start s = .next s0 ∧
      (∀ k < 98 * nblk m.length, ∃ sk : State, Host.Core.run core k s0 = .next sk ∧ sk.BUSY = true ∧ sk.DONE = false) ∧
      ∃ s1 : State, Host.Core.run core (98 * nblk m.length) s0 = .next s1 ∧ HoldsDigest m s1 ∧
        ∀ a, s1.MSG.read a = s.MSG.read a

/-- R170: the host's procedure as a script, for a legal length and for one that is too large. -/
def Obligations.HostProcedureComputesSha1 : Prop :=
  (∀ (s : State) (m : List Byte), busy s = false → m.length < 2 ^ 61 →
    (∀ j (h : j < m.length), s.MSG.read j = some m[j]) →
    s.agenda = scriptSha1 m.length (98 * nblk m.length) 1 →
    ∃ s' : State, Host.Core.run core (98 * nblk m.length + 4) s = .next s' ∧ s'.reply = some 2 ∧ HoldsDigest m s' ∧
      digestBytes s'.H = sha1 m) ∧
  (∀ (s : State) (L : Nat), s.BUSY = false → s.phase = .idle → 2 ^ 61 ≤ L → L < 2 ^ 64 →
    s.agenda = scriptSha1 L 0 1 →
    ∃ s' : State, Host.Core.run core 4 s = .next s' ∧ s'.reply = some 4 ∧ s'.phase = .idle ∧ s'.DONE = false)

/-- R166, R173, R205: a digest stays, and stays readable, through every step but a START or a reset; reading `DIGESTi` gives
its word. -/
def Obligations.DigestStaysReadable : Prop :=
  ∀ (s : State) (m : List Byte), HoldsDigest m s →
    (discards (nextEvent s) = false → ∃ s', step s = .next s' ∧ HoldsDigest m s') ∧
    (∀ i : Fin 5, ∃ s', exec (.rdreg (.digest i)) s = .next s' ∧ s'.reply = some (sha1State m)[i] ∧ SameCore s s')

/-- R172, R203: two instances with the same length and message space, whatever else they hold (datapath registers, byte order,
position), show the same flags, position and `H` after every number of turns of a run. -/
def Obligations.NoStateLeaksIntoARun : Prop :=
  ∀ (s s' : State) (k : Nat), busy s = false → busy s' = false → s.agenda = [] → s'.agenda = [] →
    s.LEN.toNat < 2 ^ 61 → s'.LEN = s.LEN → s'.MSG = s.MSG →
    ∃ s0 s0' s1 s1' : State, exec .start s = .next s0 ∧ exec .start s' = .next s0' ∧
      Host.Core.run core k s0 = .next s1 ∧ Host.Core.run core k s0' = .next s1' ∧
      s1'.H = s1.H ∧ SamePosition s1 s1' ∧ SameFlags s1 s1'

/-! ## Reserved phases (30_encoding.md R78) -/

/-- R78, with D28 and U6: in a reserved phase, whatever the flags hold, no step is enabled, `STATUS` reads `BUSY = 1`, START and
the length writes are ignored, and the core is stuck: every step of either agent but a reset answers a state with the same core. That `BUSY` counts as 1 there where its flag
holds 0 is log entry 14 (DEDUCED). -/
def Obligations.ReservedPhaseIsStuckUntilReset : Prop :=
  ∀ s : State, reservedPhase s.phase = true →
    sequencerTurn s = .next s ∧
    (nextEvent s ≠ .reset → ∃ s', step s = .next s' ∧ SamePosition s s' ∧ SameFlags s s' ∧ s'.LEN = s.LEN ∧
      s'.H = s.H ∧ s'.wv = s.wv ∧ s'.W = s.W) ∧
    (∃ s' v, exec (.rdreg .status) s = .next s' ∧ s'.reply = some v ∧
      v.toNat = 4 * s.ERR.toNat + 2 * s.DONE.toNat + 1) ∧
    exec .start s = .next s ∧ (∀ v, exec (.wrlenlo v) s = .next s ∧ exec (.wrlenhi v) s = .next s) ∧
    (nextEvent s = .reset → ∃ s', step s = .next s' ∧ s'.phase = .idle ∧ busy s' = false)
end

