-- ==== Sys2Proof/Laws/Buffer.lean ====
section
/-! SUPPORT. The rolling buffer's slots: a read after a write. -/

namespace Sys2Proof.Machine

theorem slotRead_slotWrite (W : Vector Word 16) (m n : Nat) (x : Word) :
    slotRead (slotWrite W m x) n = if m % 16 = n % 16 then x else slotRead W n := by
  simp [slotRead, slotWrite, Vector.getElem_set]

@[simp] theorem slotRead_slotWrite_same (W : Vector Word 16) (n : Nat) (x : Word) :
    slotRead (slotWrite W n x) n = x := by simp [slotRead_slotWrite]

theorem slotRead_slotWrite_other (W : Vector Word 16) {m n : Nat} (x : Word) (h : m % 16 ≠ n % 16) :
    slotRead (slotWrite W m x) n = slotRead W n := by simp [slotRead_slotWrite, h]

@[simp] theorem slotRead_mod (W : Vector Word 16) (n : Nat) : slotRead W (n % 16) = slotRead W n := by
  simp [slotRead]

/-- For `t <= 15` a round only reads its slot. -/
theorem schedBuffer_of_le (W : Vector Word 16) {t : Nat} (h : t ≤ 15) : schedBuffer W t = W := by
  simp [schedBuffer, h]

/-- For `t >= 16` a round writes its slot. -/
theorem schedBuffer_of_gt (W : Vector Word 16) {t : Nat} (h : 15 < t) :
    schedBuffer W t = slotWrite W t (schedWord W t) := by
  simp [schedBuffer, Nat.not_le.2 h]

end Sys2Proof.Machine
end

