-- ==== Sys2Proof/Laws/Encoding.lean ====
section
/-! SUPPORT. The fields of a record and the number of a register, there and back (30_encoding.md R71; 10_state.md R30). -/

namespace Sys2Proof

/-- The bits of a record by its fields. -/
theorem makeRecord_getLsbD (d : Bool) (n : BitVec 4) (v : Word) (j : Nat) :
    (makeRecord d n v).getLsbD j =
      if j < 32 then v.getLsbD j else if j < 36 then n.getLsbD (j - 32) else decide (j = 36) && d := by
  simp only [makeRecord, BitVec.getLsbD_cast, BitVec.getLsbD_append]
  split
  · rfl
  · split
    · rw [if_pos (by omega)]
    · rw [if_neg (by omega), Nat.sub_sub]
      cases d <;> simp <;> omega

@[simp] theorem recordIsWrite_makeRecord (d : Bool) (n : BitVec 4) (v : Word) :
    recordIsWrite (makeRecord d n v) = d := by
  simp only [recordIsWrite, makeRecord_getLsbD]
  simp

@[simp] theorem recordNumber_makeRecord (d : Bool) (n : BitVec 4) (v : Word) :
    recordNumber (makeRecord d n v) = n := by
  unfold recordNumber
  ext i hi
  have h1 : ¬ (32 + i < 32) := by omega
  have h2 : 32 + i < 36 := by omega
  simp only [BitVec.getElem_extractLsb', makeRecord_getLsbD, h1, h2]
  simp [BitVec.getLsbD_eq_getElem, hi]

@[simp] theorem recordValue_makeRecord (d : Bool) (n : BitVec 4) (v : Word) :
    recordValue (makeRecord d n v) = v := by
  unfold recordValue
  ext i hi
  simp only [BitVec.getElem_extractLsb', makeRecord_getLsbD]
  simp [hi, BitVec.getLsbD_eq_getElem]

theorem decodeHost_write (n : BitVec 4) (v : Word) :
    decodeHost (makeRecord true n v) = decodeWrite (regOfNumber n) v := by
  simp [decodeHost]

theorem decodeHost_read (n : BitVec 4) (v : Word) :
    decodeHost (makeRecord false n v) = .instr (.rdreg (regOfNumber n)) := by
  simp [decodeHost]

@[simp] theorem regNumber_regOfNumber (n : BitVec 4) : regNumber (regOfNumber n) = n := by
  revert n
  decide

/-- A register that stands in the register space has its number back. -/
theorem regOfNumber_regNumber {r : Reg} (h : r.wf = true) : regOfNumber (regNumber r) = r := by
  cases r with
  | digest i => revert i; decide
  | reserved n =>
    simp only [Reg.wf, Bool.and_eq_true, decide_eq_true_eq] at h
    obtain ⟨h1, h2⟩ := h
    interval_cases n <;> rfl
  | ctrl | status | lenLo | lenHi => rfl

theorem regOfNumber_wf (n : BitVec 4) : (regOfNumber n).wf = true := by
  revert n
  decide

/-- Placing a micro-operation brings `t` into what its selector takes (log entry 13). -/
theorem indexFor_fits : ∀ (u : Selector) (t : BitVec 7),
    (Machine.selectorPhase u = .round → (Machine.indexFor u t).toNat / 20 = Machine.selectorQuarter u) ∧
    (Machine.selectorPhase u = .load → (Machine.indexFor u t).toNat ≤ 15) := by
  decide

end Sys2Proof
end

