-- ==== Sys2Proof/Laws/Memory.lean ====
section
/-! SUPPORT. The message space: a read after a write, and the canonical form that every operation keeps. -/

namespace Sys2Proof.Machine

theorem Memory.read_write_same (m : Memory) (a : Nat) (b : Byte) : (m.write a b).read a = some b := by
  induction m with
  | nil => simp [Memory.write, Memory.read]
  | cons c rest ih =>
    obtain ⟨k, v⟩ := c
    unfold Memory.write
    split
    · simp [Memory.read]
    · split
      · simp [Memory.read]
      · have : k ≠ a := by omega
        simp [Memory.read, this, ih]

theorem Memory.read_write_other (m : Memory) {a x : Nat} (b : Byte) (h : x ≠ a) :
    (m.write a b).read x = m.read x := by
  have ha : a ≠ x := fun e => h e.symm
  induction m with
  | nil => simp [Memory.write, Memory.read, ha]
  | cons c rest ih =>
    obtain ⟨k, v⟩ := c
    unfold Memory.write
    split
    · simp [Memory.read, ha]
    · split
      · subst k; simp [Memory.read, ha]
      · simp only [Memory.read, ih]

theorem Memory.mem_write {m : Memory} {a : Nat} {b : Byte} {c : Host.Cell} (h : c ∈ m.write a b) :
    c = (a, b) ∨ c ∈ m := by
  induction m with
  | nil => simpa [Memory.write] using h
  | cons d rest ih =>
    obtain ⟨k, v⟩ := d
    unfold Memory.write at h
    split at h
    · simpa using h
    · split at h
      · rcases List.mem_cons.1 h with h | h
        · exact .inl h
        · exact .inr (List.mem_cons_of_mem _ h)
      · rcases List.mem_cons.1 h with h | h
        · exact .inr (h ▸ List.mem_cons_self ..)
        · exact (ih h).imp_right (List.mem_cons_of_mem _)

/-- The canonical form in words: addresses strictly rising, each below `2 ^ 64`. -/
theorem Memory.wf_iff {m : Memory} :
    m.wf = true ↔ m.Pairwise (fun x y => x.1 < y.1) ∧ ∀ c ∈ m, c.1 < 2 ^ 64 := by
  simp only [Memory.wf, Bool.and_eq_true, decide_eq_true_eq, List.all_eq_true]

/-- A write keeps the canonical form. -/
theorem Memory.write_wf {m : Memory} {a : Nat} (b : Byte) (hm : m.wf = true) (ha : a < 2 ^ 64) :
    (m.write a b).wf = true := by
  obtain ⟨hp, hb⟩ := Memory.wf_iff.1 hm
  rw [Memory.wf_iff]
  clear hm
  refine ⟨?_, fun c hc => ?_⟩
  · induction m with
    | nil => simp [Memory.write]
    | cons d rest ih =>
      obtain ⟨k, v⟩ := d
      rw [List.pairwise_cons] at hp
      unfold Memory.write
      split
      · rename_i h
        refine List.pairwise_cons.2 ⟨fun c hc => ?_, List.pairwise_cons.2 hp⟩
        rcases List.mem_cons.1 hc with rfl | hc
        · exact h
        · exact Nat.lt_trans h (hp.1 c hc)
      · split
        · rename_i h
          subst h
          exact List.pairwise_cons.2 hp
        · refine List.pairwise_cons.2 ⟨fun c hc => ?_, ih hp.2 fun c hc => hb c (List.mem_cons_of_mem _ hc)⟩
          rcases Memory.mem_write hc with rfl | hc
          · show k < a
            omega
          · exact hp.1 c hc
  · rcases Memory.mem_write hc with rfl | hc
    · exact ha
    · exact hb c hc

/-- The host's placing of a byte is the only operation that writes the message space; it keeps the canonical form. -/
theorem placeByte_wf {s : State} {a : BitVec 64} (v : Byte) (h : s.MSG.wf = true) :
    (placeByte a.toNat v s).MSG.wf = true := by
  have : (placeByte a.toNat v s).MSG = s.MSG.write a.toNat v := by unfold placeByte; split <;> rfl
  rw [this]
  exact Memory.write_wf v h a.isLt

theorem reset_memory_wf : State.reset.MSG.wf = true := by decide

/-- No race, no free choice: with nothing replaced during the run the core reads what the host placed. -/
theorem msgRead_of_no_stale {s : State} (a : Nat) (h : s.stale = []) : msgRead s a = s.MSG.read a := by
  simp [msgRead, h, staleRead]

end Sys2Proof.Machine
end

