-- ==== Sys2Proof/Laws/PerInstr.lean ====
section
/-! SUPPORT. Per operation: its words are its row of the opcode table (30_encoding.md R74). -/

namespace Sys2Proof.Laws.TableRow

/-- The match of the row of an operation (30_encoding.md R74). -/
def rowMatch : Instr → Code
  | .start => .host 0x1000000001#37
  | .nop => .host 0x1000000000#37
  | .wrlenlo _ => .host 0x1200000000#37
  | .wrlenhi _ => .host 0x1300000000#37
  | .rdreg _ => .host 0x0000000000#37
  | .loadw => .usel 0x04#5
  | .seed => .usel 0x08#5
  | .rnd0 => .usel 0x0C#5
  | .rnd1 => .usel 0x0D#5
  | .rnd2 => .usel 0x0E#5
  | .rnd3 => .usel 0x0F#5
  | .fold => .usel 0x10#5

/-- The mask of the row of an operation (30_encoding.md R74). -/
def rowMask : Instr → Nat
  | .start => 0x1F00000001
  | .nop => 0x1F00000001
  | .wrlenlo _ => 0x1F00000000
  | .wrlenhi _ => 0x1F00000000
  | .rdreg _ => 0x1000000000
  | .loadw => 0x1F
  | .seed => 0x1F
  | .rnd0 => 0x1F
  | .rnd1 => 0x1F
  | .rnd2 => 0x1F
  | .rnd3 => 0x1F
  | .fold => 0x1F

/-- The words of an operation under a mask. -/
def masked (mask : Nat) : Code → Code
  | .host r => .host (r &&& BitVec.ofNat 37 mask)
  | .usel u => .usel (u &&& BitVec.ofNat 5 mask)

/-- The words of an operation under its row's mask are its row's match. -/
def Statement (i : Instr) : Prop := masked (rowMask i) (encode i) = rowMatch i

/-- A record under the mask of its direction and its number is the record of no data. -/
theorem masked_number (d : Bool) (n : BitVec 4) (v : Word) :
    makeRecord d n v &&& 0x1F00000000#37 = makeRecord d n 0 := by
  apply BitVec.eq_of_getLsbD_eq
  intro j hj
  have hm : ∀ j < 37, (0x1F00000000#37).getLsbD j = decide (32 ≤ j) := by decide
  rw [BitVec.getLsbD_and, hm j hj]
  simp only [makeRecord, BitVec.getLsbD_cast, BitVec.getLsbD_append]
  by_cases h : j < 32
  · simp [h, Nat.not_le.2 h]
  · simp [h, Nat.le_of_not_lt h]

/-- A record under the mask of its direction alone. -/
theorem masked_direction (d : Bool) (n : BitVec 4) (v : Word) :
    makeRecord d n v &&& 0x1000000000#37 = makeRecord d 0 0 := by
  apply BitVec.eq_of_getLsbD_eq
  intro j hj
  have hm : ∀ j < 37, (0x1000000000#37).getLsbD j = decide (j = 36) := by decide
  rw [BitVec.getLsbD_and, hm j hj]
  simp only [makeRecord, BitVec.getLsbD_cast, BitVec.getLsbD_append]
  by_cases h : j = 36
  · subst h
    simp
  · by_cases h1 : j < 32
    · simp [h1, h]
    · have : j - 32 < 4 := by omega
      simp [h1, h, this]

theorem start : Statement .start := by
  unfold Statement
  decide
theorem nop : Statement .nop := by
  unfold Statement
  decide
theorem wrlenlo (v : Word) : Statement (.wrlenlo v) := congrArg Code.host (masked_number true 2 v)
theorem wrlenhi (v : Word) : Statement (.wrlenhi v) := congrArg Code.host (masked_number true 3 v)
theorem rdreg (r : Reg) : Statement (.rdreg r) := congrArg Code.host (masked_direction false (regNumber r) 0)
theorem loadw : Statement .loadw := by
  unfold Statement
  decide
theorem seed : Statement .seed := by
  unfold Statement
  decide
theorem rnd0 : Statement .rnd0 := by
  unfold Statement
  decide
theorem rnd1 : Statement .rnd1 := by
  unfold Statement
  decide
theorem rnd2 : Statement .rnd2 := by
  unfold Statement
  decide
theorem rnd3 : Statement .rnd3 := by
  unfold Statement
  decide
theorem fold : Statement .fold := by
  unfold Statement
  decide

end Sys2Proof.Laws.TableRow
end

