-- ==== Sys2Proof/Laws/State.lean ====
section
/-! SUPPORT. One lemma per field per update of State, so that no proof unfolds an update. The proofs are written `(rfl)`, so
that simp rewrites with them by congruence and keeps the Decidable terms of an if in step. -/

namespace Sys2Proof.Machine

variable (s : State)

@[simp] theorem flagsAccepted_H : (flagsAccepted s).H = s.H := (rfl)
@[simp] theorem flagsAccepted_wv : (flagsAccepted s).wv = s.wv := (rfl)
@[simp] theorem flagsAccepted_W : (flagsAccepted s).W = s.W := (rfl)
@[simp] theorem flagsAccepted_LEN : (flagsAccepted s).LEN = s.LEN := (rfl)
@[simp] theorem flagsAccepted_phase : (flagsAccepted s).phase = s.phase := (rfl)
@[simp] theorem flagsAccepted_blk : (flagsAccepted s).blk = s.blk := (rfl)
@[simp] theorem flagsAccepted_t : (flagsAccepted s).t = s.t := (rfl)
@[simp] theorem flagsAccepted_BUSY : (flagsAccepted s).BUSY = true := (rfl)
@[simp] theorem flagsAccepted_DONE : (flagsAccepted s).DONE = false := (rfl)
@[simp] theorem flagsAccepted_ERR : (flagsAccepted s).ERR = false := (rfl)
@[simp] theorem flagsAccepted_MSG : (flagsAccepted s).MSG = s.MSG := (rfl)
@[simp] theorem flagsAccepted_hostLE : (flagsAccepted s).hostLE = s.hostLE := (rfl)
@[simp] theorem flagsAccepted_agenda : (flagsAccepted s).agenda = s.agenda := (rfl)
@[simp] theorem flagsAccepted_reply : (flagsAccepted s).reply = s.reply := (rfl)
@[simp] theorem flagsAccepted_draws : (flagsAccepted s).draws = s.draws := (rfl)
@[simp] theorem flagsAccepted_stale : (flagsAccepted s).stale = s.stale := (rfl)

@[simp] theorem flagsRefused_H : (flagsRefused s).H = s.H := (rfl)
@[simp] theorem flagsRefused_wv : (flagsRefused s).wv = s.wv := (rfl)
@[simp] theorem flagsRefused_W : (flagsRefused s).W = s.W := (rfl)
@[simp] theorem flagsRefused_LEN : (flagsRefused s).LEN = s.LEN := (rfl)
@[simp] theorem flagsRefused_phase : (flagsRefused s).phase = s.phase := (rfl)
@[simp] theorem flagsRefused_blk : (flagsRefused s).blk = s.blk := (rfl)
@[simp] theorem flagsRefused_t : (flagsRefused s).t = s.t := (rfl)
@[simp] theorem flagsRefused_BUSY : (flagsRefused s).BUSY = s.BUSY := (rfl)
@[simp] theorem flagsRefused_DONE : (flagsRefused s).DONE = false := (rfl)
@[simp] theorem flagsRefused_ERR : (flagsRefused s).ERR = true := (rfl)
@[simp] theorem flagsRefused_MSG : (flagsRefused s).MSG = s.MSG := (rfl)
@[simp] theorem flagsRefused_hostLE : (flagsRefused s).hostLE = s.hostLE := (rfl)
@[simp] theorem flagsRefused_agenda : (flagsRefused s).agenda = s.agenda := (rfl)
@[simp] theorem flagsRefused_reply : (flagsRefused s).reply = s.reply := (rfl)
@[simp] theorem flagsRefused_draws : (flagsRefused s).draws = s.draws := (rfl)
@[simp] theorem flagsRefused_stale : (flagsRefused s).stale = s.stale := (rfl)

@[simp] theorem flagsFinished_H : (flagsFinished s).H = s.H := (rfl)
@[simp] theorem flagsFinished_wv : (flagsFinished s).wv = s.wv := (rfl)
@[simp] theorem flagsFinished_W : (flagsFinished s).W = s.W := (rfl)
@[simp] theorem flagsFinished_LEN : (flagsFinished s).LEN = s.LEN := (rfl)
@[simp] theorem flagsFinished_phase : (flagsFinished s).phase = s.phase := (rfl)
@[simp] theorem flagsFinished_blk : (flagsFinished s).blk = s.blk := (rfl)
@[simp] theorem flagsFinished_t : (flagsFinished s).t = s.t := (rfl)
@[simp] theorem flagsFinished_BUSY : (flagsFinished s).BUSY = false := (rfl)
@[simp] theorem flagsFinished_DONE : (flagsFinished s).DONE = true := (rfl)
@[simp] theorem flagsFinished_ERR : (flagsFinished s).ERR = s.ERR := (rfl)
@[simp] theorem flagsFinished_MSG : (flagsFinished s).MSG = s.MSG := (rfl)
@[simp] theorem flagsFinished_hostLE : (flagsFinished s).hostLE = s.hostLE := (rfl)
@[simp] theorem flagsFinished_agenda : (flagsFinished s).agenda = s.agenda := (rfl)
@[simp] theorem flagsFinished_reply : (flagsFinished s).reply = s.reply := (rfl)
@[simp] theorem flagsFinished_draws : (flagsFinished s).draws = s.draws := (rfl)
@[simp] theorem flagsFinished_stale : (flagsFinished s).stale = s.stale := (rfl)

@[simp] theorem flagsReset_H : (flagsReset s).H = s.H := (rfl)
@[simp] theorem flagsReset_wv : (flagsReset s).wv = s.wv := (rfl)
@[simp] theorem flagsReset_W : (flagsReset s).W = s.W := (rfl)
@[simp] theorem flagsReset_LEN : (flagsReset s).LEN = s.LEN := (rfl)
@[simp] theorem flagsReset_phase : (flagsReset s).phase = s.phase := (rfl)
@[simp] theorem flagsReset_blk : (flagsReset s).blk = s.blk := (rfl)
@[simp] theorem flagsReset_t : (flagsReset s).t = s.t := (rfl)
@[simp] theorem flagsReset_BUSY : (flagsReset s).BUSY = false := (rfl)
@[simp] theorem flagsReset_DONE : (flagsReset s).DONE = false := (rfl)
@[simp] theorem flagsReset_ERR : (flagsReset s).ERR = false := (rfl)
@[simp] theorem flagsReset_MSG : (flagsReset s).MSG = s.MSG := (rfl)
@[simp] theorem flagsReset_hostLE : (flagsReset s).hostLE = s.hostLE := (rfl)
@[simp] theorem flagsReset_agenda : (flagsReset s).agenda = s.agenda := (rfl)
@[simp] theorem flagsReset_reply : (flagsReset s).reply = s.reply := (rfl)
@[simp] theorem flagsReset_draws : (flagsReset s).draws = s.draws := (rfl)
@[simp] theorem flagsReset_stale : (flagsReset s).stale = s.stale := (rfl)

@[simp] theorem raiseInputTooLarge_H : (raiseInputTooLarge s).H = s.H := (rfl)
@[simp] theorem raiseInputTooLarge_wv : (raiseInputTooLarge s).wv = s.wv := (rfl)
@[simp] theorem raiseInputTooLarge_W : (raiseInputTooLarge s).W = s.W := (rfl)
@[simp] theorem raiseInputTooLarge_LEN : (raiseInputTooLarge s).LEN = s.LEN := (rfl)
@[simp] theorem raiseInputTooLarge_phase : (raiseInputTooLarge s).phase = s.phase := (rfl)
@[simp] theorem raiseInputTooLarge_blk : (raiseInputTooLarge s).blk = s.blk := (rfl)
@[simp] theorem raiseInputTooLarge_t : (raiseInputTooLarge s).t = s.t := (rfl)
@[simp] theorem raiseInputTooLarge_BUSY : (raiseInputTooLarge s).BUSY = s.BUSY := (rfl)
@[simp] theorem raiseInputTooLarge_DONE : (raiseInputTooLarge s).DONE = false := (rfl)
@[simp] theorem raiseInputTooLarge_ERR : (raiseInputTooLarge s).ERR = true := (rfl)
@[simp] theorem raiseInputTooLarge_MSG : (raiseInputTooLarge s).MSG = s.MSG := (rfl)
@[simp] theorem raiseInputTooLarge_hostLE : (raiseInputTooLarge s).hostLE = s.hostLE := (rfl)
@[simp] theorem raiseInputTooLarge_agenda : (raiseInputTooLarge s).agenda = s.agenda := (rfl)
@[simp] theorem raiseInputTooLarge_reply : (raiseInputTooLarge s).reply = s.reply := (rfl)
@[simp] theorem raiseInputTooLarge_draws : (raiseInputTooLarge s).draws = s.draws := (rfl)
@[simp] theorem raiseInputTooLarge_stale : (raiseInputTooLarge s).stale = s.stale := (rfl)

@[simp] theorem beginRun_H : (beginRun s).H = initialH := (rfl)
@[simp] theorem beginRun_wv : (beginRun s).wv = s.wv := (rfl)
@[simp] theorem beginRun_W : (beginRun s).W = s.W := (rfl)
@[simp] theorem beginRun_LEN : (beginRun s).LEN = s.LEN := (rfl)
@[simp] theorem beginRun_phase : (beginRun s).phase = .load := (rfl)
@[simp] theorem beginRun_blk : (beginRun s).blk = 0 := (rfl)
@[simp] theorem beginRun_t : (beginRun s).t = 0 := (rfl)
@[simp] theorem beginRun_BUSY : (beginRun s).BUSY = true := (rfl)
@[simp] theorem beginRun_DONE : (beginRun s).DONE = false := (rfl)
@[simp] theorem beginRun_ERR : (beginRun s).ERR = false := (rfl)
@[simp] theorem beginRun_MSG : (beginRun s).MSG = s.MSG := (rfl)
@[simp] theorem beginRun_hostLE : (beginRun s).hostLE = s.hostLE := (rfl)
@[simp] theorem beginRun_agenda : (beginRun s).agenda = s.agenda := (rfl)
@[simp] theorem beginRun_reply : (beginRun s).reply = s.reply := (rfl)
@[simp] theorem beginRun_draws : (beginRun s).draws = s.draws := (rfl)
@[simp] theorem beginRun_stale : (beginRun s).stale = [] := (rfl)

@[simp] theorem resetEvent_H : (resetEvent s).H = Vector.ofFn (fun i : Fin 5 => Config.resetWord s.draws i.val) := (rfl)
@[simp] theorem resetEvent_wv : (resetEvent s).wv = { a := Config.resetWord s.draws 5, b := Config.resetWord s.draws 6, c := Config.resetWord s.draws 7, d := Config.resetWord s.draws 8, e := Config.resetWord s.draws 9 } := (rfl)
@[simp] theorem resetEvent_W : (resetEvent s).W = Vector.ofFn (fun i : Fin 16 => Config.resetWord s.draws (10 + i.val)) := (rfl)
@[simp] theorem resetEvent_LEN : (resetEvent s).LEN = 0 := (rfl)
@[simp] theorem resetEvent_phase : (resetEvent s).phase = .idle := (rfl)
@[simp] theorem resetEvent_blk : (resetEvent s).blk = Config.resetBlk s.draws := (rfl)
@[simp] theorem resetEvent_t : (resetEvent s).t = Config.resetT s.draws := (rfl)
@[simp] theorem resetEvent_BUSY : (resetEvent s).BUSY = false := (rfl)
@[simp] theorem resetEvent_DONE : (resetEvent s).DONE = false := (rfl)
@[simp] theorem resetEvent_ERR : (resetEvent s).ERR = false := (rfl)
@[simp] theorem resetEvent_MSG : (resetEvent s).MSG = s.MSG := (rfl)
@[simp] theorem resetEvent_hostLE : (resetEvent s).hostLE = s.hostLE := (rfl)
@[simp] theorem resetEvent_agenda : (resetEvent s).agenda = s.agenda := (rfl)
@[simp] theorem resetEvent_reply : (resetEvent s).reply = s.reply := (rfl)
@[simp] theorem resetEvent_draws : (resetEvent s).draws = s.draws + 1 := (rfl)
@[simp] theorem resetEvent_stale : (resetEvent s).stale = [] := (rfl)

@[simp] theorem afterFetch_H : (afterFetch s).H = s.H := (rfl)
@[simp] theorem afterFetch_wv : (afterFetch s).wv = s.wv := (rfl)
@[simp] theorem afterFetch_W : (afterFetch s).W = s.W := (rfl)
@[simp] theorem afterFetch_LEN : (afterFetch s).LEN = s.LEN := (rfl)
@[simp] theorem afterFetch_phase : (afterFetch s).phase = s.phase := (rfl)
@[simp] theorem afterFetch_blk : (afterFetch s).blk = s.blk := (rfl)
@[simp] theorem afterFetch_t : (afterFetch s).t = s.t := (rfl)
@[simp] theorem afterFetch_BUSY : (afterFetch s).BUSY = s.BUSY := (rfl)
@[simp] theorem afterFetch_DONE : (afterFetch s).DONE = s.DONE := (rfl)
@[simp] theorem afterFetch_ERR : (afterFetch s).ERR = s.ERR := (rfl)
@[simp] theorem afterFetch_MSG : (afterFetch s).MSG = s.MSG := (rfl)
@[simp] theorem afterFetch_hostLE : (afterFetch s).hostLE = s.hostLE := (rfl)
@[simp] theorem afterFetch_agenda : (afterFetch s).agenda = s.agenda.tail := (rfl)
@[simp] theorem afterFetch_reply : (afterFetch s).reply = s.reply := (rfl)
@[simp] theorem afterFetch_draws : (afterFetch s).draws = s.draws := (rfl)
@[simp] theorem afterFetch_stale : (afterFetch s).stale = s.stale := (rfl)

@[simp] theorem loadInto_H (x : Word) : (loadInto x s).H = s.H := (rfl)
@[simp] theorem loadInto_wv (x : Word) : (loadInto x s).wv = s.wv := (rfl)
@[simp] theorem loadInto_W (x : Word) : (loadInto x s).W = slotWrite s.W s.t.toNat x := (rfl)
@[simp] theorem loadInto_LEN (x : Word) : (loadInto x s).LEN = s.LEN := (rfl)
@[simp] theorem loadInto_phase (x : Word) : (loadInto x s).phase = if s.t.toNat = 15 then .seed else s.phase := (rfl)
@[simp] theorem loadInto_blk (x : Word) : (loadInto x s).blk = s.blk := (rfl)
@[simp] theorem loadInto_t (x : Word) : (loadInto x s).t = if s.t.toNat = 15 then s.t else s.t + 1 := (rfl)
@[simp] theorem loadInto_BUSY (x : Word) : (loadInto x s).BUSY = s.BUSY := (rfl)
@[simp] theorem loadInto_DONE (x : Word) : (loadInto x s).DONE = s.DONE := (rfl)
@[simp] theorem loadInto_ERR (x : Word) : (loadInto x s).ERR = s.ERR := (rfl)
@[simp] theorem loadInto_MSG (x : Word) : (loadInto x s).MSG = s.MSG := (rfl)
@[simp] theorem loadInto_hostLE (x : Word) : (loadInto x s).hostLE = s.hostLE := (rfl)
@[simp] theorem loadInto_agenda (x : Word) : (loadInto x s).agenda = s.agenda := (rfl)
@[simp] theorem loadInto_reply (x : Word) : (loadInto x s).reply = s.reply := (rfl)
@[simp] theorem loadInto_draws (x : Word) : (loadInto x s).draws = s.draws := (rfl)
@[simp] theorem loadInto_stale (x : Word) : (loadInto x s).stale = s.stale := (rfl)

@[simp] theorem roundInto_H (q : Fin 4) : (roundInto q s).H = s.H := (rfl)
@[simp] theorem roundInto_wv (q : Fin 4) : (roundInto q s).wv = roundWork q s.wv (schedWord s.W s.t.toNat) := (rfl)
@[simp] theorem roundInto_W (q : Fin 4) : (roundInto q s).W = schedBuffer s.W s.t.toNat := (rfl)
@[simp] theorem roundInto_LEN (q : Fin 4) : (roundInto q s).LEN = s.LEN := (rfl)
@[simp] theorem roundInto_phase (q : Fin 4) : (roundInto q s).phase = if s.t.toNat = 79 then .fold else s.phase := (rfl)
@[simp] theorem roundInto_blk (q : Fin 4) : (roundInto q s).blk = s.blk := (rfl)
@[simp] theorem roundInto_t (q : Fin 4) : (roundInto q s).t = if s.t.toNat = 79 then s.t else s.t + 1 := (rfl)
@[simp] theorem roundInto_BUSY (q : Fin 4) : (roundInto q s).BUSY = s.BUSY := (rfl)
@[simp] theorem roundInto_DONE (q : Fin 4) : (roundInto q s).DONE = s.DONE := (rfl)
@[simp] theorem roundInto_ERR (q : Fin 4) : (roundInto q s).ERR = s.ERR := (rfl)
@[simp] theorem roundInto_MSG (q : Fin 4) : (roundInto q s).MSG = s.MSG := (rfl)
@[simp] theorem roundInto_hostLE (q : Fin 4) : (roundInto q s).hostLE = s.hostLE := (rfl)
@[simp] theorem roundInto_agenda (q : Fin 4) : (roundInto q s).agenda = s.agenda := (rfl)
@[simp] theorem roundInto_reply (q : Fin 4) : (roundInto q s).reply = s.reply := (rfl)
@[simp] theorem roundInto_draws (q : Fin 4) : (roundInto q s).draws = s.draws := (rfl)
@[simp] theorem roundInto_stale (q : Fin 4) : (roundInto q s).stale = s.stale := (rfl)

@[simp] theorem writeLenLow_H (v : Word) : (writeLenLow v s).H = s.H := by unfold writeLenLow; split <;> rfl
@[simp] theorem writeLenLow_wv (v : Word) : (writeLenLow v s).wv = s.wv := by unfold writeLenLow; split <;> rfl
@[simp] theorem writeLenLow_W (v : Word) : (writeLenLow v s).W = s.W := by unfold writeLenLow; split <;> rfl
@[simp] theorem writeLenLow_phase (v : Word) : (writeLenLow v s).phase = s.phase := by unfold writeLenLow; split <;> rfl
@[simp] theorem writeLenLow_blk (v : Word) : (writeLenLow v s).blk = s.blk := by unfold writeLenLow; split <;> rfl
@[simp] theorem writeLenLow_t (v : Word) : (writeLenLow v s).t = s.t := by unfold writeLenLow; split <;> rfl
@[simp] theorem writeLenLow_BUSY (v : Word) : (writeLenLow v s).BUSY = s.BUSY := by unfold writeLenLow; split <;> rfl
@[simp] theorem writeLenLow_DONE (v : Word) : (writeLenLow v s).DONE = s.DONE := by unfold writeLenLow; split <;> rfl
@[simp] theorem writeLenLow_ERR (v : Word) : (writeLenLow v s).ERR = s.ERR := by unfold writeLenLow; split <;> rfl
@[simp] theorem writeLenLow_MSG (v : Word) : (writeLenLow v s).MSG = s.MSG := by unfold writeLenLow; split <;> rfl
@[simp] theorem writeLenLow_hostLE (v : Word) : (writeLenLow v s).hostLE = s.hostLE := by unfold writeLenLow; split <;> rfl
@[simp] theorem writeLenLow_agenda (v : Word) : (writeLenLow v s).agenda = s.agenda := by unfold writeLenLow; split <;> rfl
@[simp] theorem writeLenLow_reply (v : Word) : (writeLenLow v s).reply = s.reply := by unfold writeLenLow; split <;> rfl
@[simp] theorem writeLenLow_draws (v : Word) : (writeLenLow v s).draws = s.draws := by unfold writeLenLow; split <;> rfl
@[simp] theorem writeLenLow_stale (v : Word) : (writeLenLow v s).stale = s.stale := by unfold writeLenLow; split <;> rfl

@[simp] theorem writeLenHigh_H (v : Word) : (writeLenHigh v s).H = s.H := by unfold writeLenHigh; split <;> rfl
@[simp] theorem writeLenHigh_wv (v : Word) : (writeLenHigh v s).wv = s.wv := by unfold writeLenHigh; split <;> rfl
@[simp] theorem writeLenHigh_W (v : Word) : (writeLenHigh v s).W = s.W := by unfold writeLenHigh; split <;> rfl
@[simp] theorem writeLenHigh_phase (v : Word) : (writeLenHigh v s).phase = s.phase := by unfold writeLenHigh; split <;> rfl
@[simp] theorem writeLenHigh_blk (v : Word) : (writeLenHigh v s).blk = s.blk := by unfold writeLenHigh; split <;> rfl
@[simp] theorem writeLenHigh_t (v : Word) : (writeLenHigh v s).t = s.t := by unfold writeLenHigh; split <;> rfl
@[simp] theorem writeLenHigh_BUSY (v : Word) : (writeLenHigh v s).BUSY = s.BUSY := by unfold writeLenHigh; split <;> rfl
@[simp] theorem writeLenHigh_DONE (v : Word) : (writeLenHigh v s).DONE = s.DONE := by unfold writeLenHigh; split <;> rfl
@[simp] theorem writeLenHigh_ERR (v : Word) : (writeLenHigh v s).ERR = s.ERR := by unfold writeLenHigh; split <;> rfl
@[simp] theorem writeLenHigh_MSG (v : Word) : (writeLenHigh v s).MSG = s.MSG := by unfold writeLenHigh; split <;> rfl
@[simp] theorem writeLenHigh_hostLE (v : Word) : (writeLenHigh v s).hostLE = s.hostLE := by unfold writeLenHigh; split <;> rfl
@[simp] theorem writeLenHigh_agenda (v : Word) : (writeLenHigh v s).agenda = s.agenda := by unfold writeLenHigh; split <;> rfl
@[simp] theorem writeLenHigh_reply (v : Word) : (writeLenHigh v s).reply = s.reply := by unfold writeLenHigh; split <;> rfl
@[simp] theorem writeLenHigh_draws (v : Word) : (writeLenHigh v s).draws = s.draws := by unfold writeLenHigh; split <;> rfl
@[simp] theorem writeLenHigh_stale (v : Word) : (writeLenHigh v s).stale = s.stale := by unfold writeLenHigh; split <;> rfl

@[simp] theorem placeByte_H (a : Nat) (v : Byte) : (placeByte a v s).H = s.H := by unfold placeByte; split <;> rfl
@[simp] theorem placeByte_wv (a : Nat) (v : Byte) : (placeByte a v s).wv = s.wv := by unfold placeByte; split <;> rfl
@[simp] theorem placeByte_W (a : Nat) (v : Byte) : (placeByte a v s).W = s.W := by unfold placeByte; split <;> rfl
@[simp] theorem placeByte_LEN (a : Nat) (v : Byte) : (placeByte a v s).LEN = s.LEN := by unfold placeByte; split <;> rfl
@[simp] theorem placeByte_phase (a : Nat) (v : Byte) : (placeByte a v s).phase = s.phase := by unfold placeByte; split <;> rfl
@[simp] theorem placeByte_blk (a : Nat) (v : Byte) : (placeByte a v s).blk = s.blk := by unfold placeByte; split <;> rfl
@[simp] theorem placeByte_t (a : Nat) (v : Byte) : (placeByte a v s).t = s.t := by unfold placeByte; split <;> rfl
@[simp] theorem placeByte_BUSY (a : Nat) (v : Byte) : (placeByte a v s).BUSY = s.BUSY := by unfold placeByte; split <;> rfl
@[simp] theorem placeByte_DONE (a : Nat) (v : Byte) : (placeByte a v s).DONE = s.DONE := by unfold placeByte; split <;> rfl
@[simp] theorem placeByte_ERR (a : Nat) (v : Byte) : (placeByte a v s).ERR = s.ERR := by unfold placeByte; split <;> rfl
@[simp] theorem placeByte_hostLE (a : Nat) (v : Byte) : (placeByte a v s).hostLE = s.hostLE := by unfold placeByte; split <;> rfl
@[simp] theorem placeByte_agenda (a : Nat) (v : Byte) : (placeByte a v s).agenda = s.agenda := by unfold placeByte; split <;> rfl
@[simp] theorem placeByte_reply (a : Nat) (v : Byte) : (placeByte a v s).reply = s.reply := by unfold placeByte; split <;> rfl

@[simp] theorem foldInto_wv : (foldInto s).wv = s.wv := by unfold foldInto; split <;> rfl
@[simp] theorem foldInto_W : (foldInto s).W = s.W := by unfold foldInto; split <;> rfl
@[simp] theorem foldInto_LEN : (foldInto s).LEN = s.LEN := by unfold foldInto; split <;> rfl
@[simp] theorem foldInto_ERR : (foldInto s).ERR = s.ERR := by unfold foldInto; split <;> rfl
@[simp] theorem foldInto_MSG : (foldInto s).MSG = s.MSG := by unfold foldInto; split <;> rfl
@[simp] theorem foldInto_hostLE : (foldInto s).hostLE = s.hostLE := by unfold foldInto; split <;> rfl
@[simp] theorem foldInto_agenda : (foldInto s).agenda = s.agenda := by unfold foldInto; split <;> rfl
@[simp] theorem foldInto_reply : (foldInto s).reply = s.reply := by unfold foldInto; split <;> rfl
@[simp] theorem foldInto_draws : (foldInto s).draws = s.draws := by unfold foldInto; split <;> rfl
@[simp] theorem foldInto_stale : (foldInto s).stale = s.stale := by unfold foldInto; split <;> rfl

@[simp] theorem foldInto_H : (foldInto s).H = foldH s.H s.wv := by unfold foldInto; split <;> rfl
@[simp] theorem placeByte_MSG (a : Nat) (v : Byte) : (placeByte a v s).MSG = s.MSG.write a v := by
  unfold placeByte; split <;> rfl
@[simp] theorem writeLenLow_LEN (v : Word) :
    (writeLenLow v s).LEN = if busy s then s.LEN else (lenHigh s.LEN ++ v).cast (by decide) := by unfold writeLenLow; split <;> rfl
@[simp] theorem writeLenHigh_LEN (v : Word) :
    (writeLenHigh v s).LEN = if busy s then s.LEN else (v ++ lenLow s.LEN).cast (by decide) := by unfold writeLenHigh; split <;> rfl

/-- The last FOLD of a run (43_compression.md R146). -/
theorem foldInto_of_last (h : lastBlock s = true) :
    foldInto s = { flagsFinished s with H := foldH s.H s.wv, phase := .idle } := by simp [foldInto, h]

/-- A FOLD with another block to follow (43_compression.md R146). -/
theorem foldInto_of_more (h : lastBlock s = false) :
    foldInto s = { s with H := foldH s.H s.wv, blk := s.blk + 1, t := 0, phase := .load } := by simp [foldInto, h]

variable {s}

/-- `BUSY` reads 0 exactly where the flag is 0 and the phase has a name (30_encoding.md R78). -/
theorem busy_eq_false_iff : busy s = false ↔ s.BUSY = false ∧ reservedPhase s.phase = false := by simp [busy]

theorem busy_of_flag (h : s.BUSY = true) : busy s = true := by simp [busy, h]

theorem busy_of_reservedPhase (h : reservedPhase s.phase = true) : busy s = true := by simp [busy, h]

/-- Outside the reserved phases `BUSY` reads as its flag. -/
theorem busy_of_namedPhase (h : reservedPhase s.phase = false) : busy s = s.BUSY := by simp [busy, h]

@[simp] theorem busy_afterFetch : busy (afterFetch s) = busy s := (rfl)
@[simp] theorem busy_beginRun : busy (beginRun s) = true := (rfl)
@[simp] theorem busy_raiseInputTooLarge : busy (raiseInputTooLarge s) = busy s := (rfl)
@[simp] theorem busy_resetEvent : busy (resetEvent s) = false := (rfl)
@[simp] theorem busy_writeLenLow (v : Word) : busy (writeLenLow v s) = busy s := by simp [busy]
@[simp] theorem busy_writeLenHigh (v : Word) : busy (writeLenHigh v s) = busy s := by simp [busy]
@[simp] theorem busy_placeByte (a : Nat) (v : Byte) : busy (placeByte a v s) = busy s := by simp [busy]

/-- While `BUSY` reads 1 a length write changes nothing (44_driver_host.md R164). -/
theorem writeLenLow_of_busy (v : Word) (h : busy s = true) : writeLenLow v s = s := if_pos h
theorem writeLenHigh_of_busy (v : Word) (h : busy s = true) : writeLenHigh v s = s := if_pos h

end Sys2Proof.Machine
end

