-- ==== Sys2Proof/Laws/Steps.lean ====
section
/-! SUPPORT. What each shared operation and each agent's turn can do, once: an inversion lemma per operation. -/

namespace Sys2Proof.Machine

variable {s s' : State} {r : Record}

/-- What an event of the agenda can be. -/
theorem step_of_nil (h : s.agenda = []) : step s = sequencerTurn s := by
  have : afterFetch s = s := by cases s; simp_all [afterFetch]
  simp [step, nextEvent, h, this, runEvent]

theorem step_of_cons {e : Event} {rest : List Event} (h : s.agenda = e :: rest) :
    step s = runEvent e { s with agenda := rest } := by
  simp [step, nextEvent, afterFetch, h]

/-- The round step answers next exactly where it is enabled, with its one effect. -/
theorem roundStep_next_iff {q : Fin 4} :
    roundStep q s = .next s' ↔ s.phase = .round ∧ quarter s.t.toNat = q.val ∧ s' = roundInto q s := by
  unfold roundStep
  split
  · rename_i h
    simp [h, eq_comm]
  · rename_i h
    constructor
    · intro e; cases e
    · rintro ⟨h1, h2, _⟩; exact absurd ⟨h1, h2⟩ h

/-- START answers next always, by the three cases of 60_exceptions.md R185. -/
theorem execStart_next (h : execStart s = .next s') :
    (busy s = true ∧ s' = s) ∨
    (busy s = false ∧ lengthBound ≤ s.LEN.toNat ∧ s' = raiseInputTooLarge s) ∨
    (busy s = false ∧ s.LEN.toNat < lengthBound ∧ s' = beginRun s) := by
  unfold execStart at h
  split at h
  · rename_i hb
    cases h
    exact .inl ⟨hb, rfl⟩
  · rename_i hb
    have hb' : busy s = false := by simpa using hb
    split at h
    · rename_i hl
      cases h
      exact .inr (.inl ⟨hb', hl, rfl⟩)
    · rename_i hl
      cases h
      exact .inr (.inr ⟨hb', by omega, rfl⟩)

/-- LOADW answers next in phase LOAD only: with its word loaded, or unchanged where the port is silent. -/
theorem execLoadw_next (h : execLoadw s = .next s') :
    s.phase = .load ∧ s.t.toNat ≤ 15 ∧ padDefined s = true ∧
      ((∃ x, loadWord s = some x ∧ s' = loadInto x s) ∨ (loadWord s = none ∧ s' = s)) := by
  unfold execLoadw at h
  split at h
  · rename_i hp
    split at h
    · rename_i ht
      split at h
      · rename_i hd
        refine ⟨hp, ht, hd, ?_⟩
        split at h
        · rename_i x hx
          cases h
          exact .inl ⟨x, hx, rfl⟩
        · rename_i hx
          cases h
          exact .inr ⟨hx, rfl⟩
      · cases h
    · cases h
  · cases h

theorem execSeed_next (h : execSeed s = .next s') :
    s.phase = .seed ∧ s' = { s with wv := seedWork s.H, t := 0, phase := .round } := by
  unfold execSeed at h
  split at h
  · rename_i hp
    cases h
    exact ⟨hp, rfl⟩
  · cases h

theorem execFold_next (h : execFold s = .next s') : s.phase = .fold ∧ s' = foldInto s := by
  unfold execFold at h
  split at h
  · rename_i hp
    cases h
    exact ⟨hp, rfl⟩
  · cases h

/-- The sequencer's turn in each phase. -/
theorem sequencerTurn_idle (h : s.phase = .idle) : sequencerTurn s = .next s := by
  simp [sequencerTurn, usel, h, phaseCode, decodeUsel]

theorem sequencerTurn_load (h : s.phase = .load) : sequencerTurn s = execLoadw s := by
  simp [sequencerTurn, usel, h, phaseCode, decodeUsel, exec]

theorem sequencerTurn_seed (h : s.phase = .seed) : sequencerTurn s = execSeed s := by
  simp [sequencerTurn, usel, h, phaseCode, decodeUsel, exec]

theorem sequencerTurn_fold (h : s.phase = .fold) : sequencerTurn s = execFold s := by
  simp [sequencerTurn, usel, h, phaseCode, decodeUsel, exec]

theorem sequencerTurn_round {q : Fin 4} (h : s.phase = .round) (hq : quarter s.t.toNat = q.val) :
    sequencerTurn s = .next (roundInto q s) := by
  have ht : s.t.toNat ≤ 79 := by
    have := q.isLt
    unfold quarter at hq
    omega
  have hr : roundStep q s = .next (roundInto q s) := roundStep_next_iff.2 ⟨h, hq, rfl⟩
  match q, hq, hr with
  | 0, hq, hr | 1, hq, hr | 2, hq, hr | 3, hq, hr =>
    simp [sequencerTurn, usel, h, ht, hq, phaseCode, decodeUsel, exec, execRnd0, execRnd1, execRnd2, execRnd3, hr]

/-- Beyond round 79 no round is enabled. -/
theorem sequencerTurn_round_over (h : s.phase = .round) (ht : 79 < s.t.toNat) : sequencerTurn s = .next s := by
  simp [sequencerTurn, usel, h, Nat.not_le.2 ht]

theorem sequencerTurn_reserved (h : s.phase = .reserved5 ∨ s.phase = .reserved6 ∨ s.phase = .reserved7) :
    sequencerTurn s = .next s := by
  rcases h with h | h | h <;> simp [sequencerTurn, usel, h, phaseCode, decodeUsel]

theorem sequencerTurn_of_reservedPhase (h : reservedPhase s.phase = true) : sequencerTurn s = .next s := by
  apply sequencerTurn_reserved
  revert h
  cases s.phase <;> decide

/-- Everything the sequencer's turn can do: nothing where no step is enabled, or the one enabled micro-operation. -/
theorem sequencerTurn_next (h : sequencerTurn s = .next s') :
    s' = s ∨
    (s.phase = .load ∧ s.t.toNat ≤ 15 ∧ padDefined s = true ∧ ∃ x, loadWord s = some x ∧ s' = loadInto x s) ∨
    (s.phase = .seed ∧ s' = { s with wv := seedWork s.H, t := 0, phase := .round }) ∨
    (s.phase = .round ∧ ∃ q : Fin 4, quarter s.t.toNat = q.val ∧ s' = roundInto q s) ∨
    (s.phase = .fold ∧ s' = foldInto s) := by
  cases hp : s.phase with
  | idle => rw [sequencerTurn_idle hp] at h; cases h; exact .inl rfl
  | load =>
    rw [sequencerTurn_load hp] at h
    obtain ⟨-, ht, hd, ⟨x, hx, hs⟩ | ⟨-, hs⟩⟩ := execLoadw_next h
    · exact .inr (.inl ⟨rfl, ht, hd, x, hx, hs⟩)
    · exact .inl hs
  | seed => rw [sequencerTurn_seed hp] at h; exact .inr (.inr (.inl ⟨rfl, (execSeed_next h).2⟩))
  | round =>
    by_cases ht : s.t.toNat ≤ 79
    · have hq : quarter s.t.toNat < 4 := by unfold quarter; omega
      rw [sequencerTurn_round (q := ⟨_, hq⟩) hp rfl] at h
      cases h
      exact .inr (.inr (.inr (.inl ⟨rfl, ⟨_, hq⟩, rfl, rfl⟩)))
    · rw [sequencerTurn_round_over hp (by omega)] at h; cases h; exact .inl rfl
  | fold => rw [sequencerTurn_fold hp] at h; exact .inr (.inr (.inr (.inr ⟨rfl, (execFold_next h).2⟩)))
  | reserved5 => rw [sequencerTurn_reserved (.inl hp)] at h; cases h; exact .inl rfl
  | reserved6 => rw [sequencerTurn_reserved (.inr (.inl hp))] at h; cases h; exact .inl rfl
  | reserved7 => rw [sequencerTurn_reserved (.inr (.inr hp))] at h; cases h; exact .inl rfl

/-- What a record decodes to: never a micro-operation. -/
theorem decodeHost_cases (r : Record) :
    decodeHost r = .instr .start ∨ decodeHost r = .instr .nop ∨ (∃ v, decodeHost r = .instr (.wrlenlo v)) ∨
    (∃ v, decodeHost r = .instr (.wrlenhi v)) ∨ (∃ x, decodeHost r = .instr (.rdreg x)) ∨
    ∃ x, decodeHost r = .reject (.ignoredWrite x) := by
  unfold decodeHost
  split
  · unfold decodeWrite
    split
    · split <;> simp
    all_goals simp
  · simp

/-- Everything a host transaction can do; it answers next always. -/
theorem runRecord_next (h : runRecord r s = .next s') :
    (decodeHost r = .instr .start ∧ execStart s = .next s') ∨
    (decodeHost r ≠ .instr .start ∧
      (s' = s ∨ (∃ v, s' = writeLenLow v s) ∨ (∃ v, s' = writeLenHigh v s) ∨
        ∃ x, s' = { s with reply := some (regRead s x), draws := if readIsFree s x then s.draws + 1 else s.draws })) := by
  unfold runRecord at h
  rcases decodeHost_cases r with e | e | ⟨v, e⟩ | ⟨v, e⟩ | ⟨x, e⟩ | ⟨x, e⟩ <;> rw [e] at h ⊢
  · exact .inl ⟨rfl, h⟩
  all_goals refine .inr ⟨by simp, ?_⟩
  · cases h; exact .inl rfl
  · cases h; exact .inr (.inl ⟨v, rfl⟩)
  · cases h; exact .inr (.inr (.inl ⟨v, rfl⟩))
  · cases h; exact .inr (.inr (.inr ⟨x, rfl⟩))
  · cases h; exact .inl rfl

/-- A host transaction always answers next (30_encoding.md R77, 60_exceptions.md R181). -/
theorem runRecord_answers (r : Record) (s : State) : ∃ s', runRecord r s = .next s' := by
  unfold runRecord
  rcases decodeHost_cases r with e | e | ⟨v, e⟩ | ⟨v, e⟩ | ⟨x, e⟩ | ⟨x, e⟩ <;> rw [e]
  · simp only [exec, execStart]
    split
    · exact ⟨_, rfl⟩
    · split <;> exact ⟨_, rfl⟩
  all_goals exact ⟨_, rfl⟩

/-- Placing a byte: with a race remembered, or not. -/
theorem placeByte_cases (a : Nat) (v : Byte) (s : State) :
    (∃ old, racedByte s a v = some old ∧ placeByte a v s =
      { s with MSG := s.MSG.write a v, stale := { addr := a, old := old, draw := s.draws } :: s.stale,
               draws := s.draws + 1 }) ∨
    (racedByte s a v = none ∧ placeByte a v s = { s with MSG := s.MSG.write a v }) := by
  unfold placeByte
  split
  · exact .inl ⟨_, ‹_›, rfl⟩
  · exact .inr ⟨‹_›, rfl⟩

/-- On its turn the sequencer moves, on the state without the event. -/
theorem step_of_turn {rest : List Event} (h : s.agenda = .core :: rest ∨ (s.agenda = [] ∧ rest = [])) :
    step s = sequencerTurn { s with agenda := rest } := by
  rcases h with h | ⟨h, rfl⟩
  · rw [step_of_cons h]
    rfl
  · rw [step_of_nil h]
    congr 1
    cases s
    simp_all

/-- Everything a step can do, by the event that moves. -/
theorem step_cases (h : step s = .next s') :
    (∃ r, nextEvent s = .txn r ∧ decodeHost r = .instr .start ∧ execStart (afterFetch s) = .next s') ∨
    (∃ r, nextEvent s = .txn r ∧ decodeHost r ≠ .instr .start ∧
      (s' = afterFetch s ∨ (∃ v, s' = writeLenLow v (afterFetch s)) ∨ (∃ v, s' = writeLenHigh v (afterFetch s)) ∨
        ∃ x n, s' = { afterFetch s with reply := some (regRead (afterFetch s) x), draws := n })) ∨
    (nextEvent s = .reset ∧ s' = resetEvent (afterFetch s)) ∨
    (∃ a v, nextEvent s = .place a v ∧ s' = placeByte a.toNat v (afterFetch s)) ∨
    (nextEvent s = .core ∧ sequencerTurn (afterFetch s) = .next s') := by
  unfold step at h
  cases he : nextEvent s with
  | txn r =>
    rw [he] at h
    rcases runRecord_next h with ⟨h1, h2⟩ | ⟨h1, h2 | h2 | h2 | ⟨x, h2⟩⟩
    · exact .inl ⟨r, rfl, h1, h2⟩
    · exact .inr (.inl ⟨r, rfl, h1, .inl h2⟩)
    · exact .inr (.inl ⟨r, rfl, h1, .inr (.inl h2)⟩)
    · exact .inr (.inl ⟨r, rfl, h1, .inr (.inr (.inl h2))⟩)
    · exact .inr (.inl ⟨r, rfl, h1, .inr (.inr (.inr ⟨x, _, h2⟩))⟩)
  | reset =>
    rw [he] at h
    cases h
    exact .inr (.inr (.inl ⟨rfl, rfl⟩))
  | place a v =>
    rw [he] at h
    cases h
    exact .inr (.inr (.inr (.inl ⟨a, v, rfl, rfl⟩)))
  | core =>
    rw [he] at h
    exact .inr (.inr (.inr (.inr ⟨rfl, h⟩)))

end Sys2Proof.Machine
end

