-- ==== Sys2Proof/Laws/Position.lean ====
section
/-! SUPPORT. The counters never wrap in a run (10_state.md R26), the padding is defined for every LOADW of a run, and the
small facts about words that statements use. -/

namespace Sys2Proof.Machine

variable {s : State}

theorem nblk_le {L : Nat} (h : L < lengthBound) : nblk L ≤ 2 ^ 55 + 1 := by
  unfold nblk
  unfold lengthBound at h
  omega

/-- The block index of a run has room for one more (10_state.md R26). -/
theorem blk_succ {b : BitVec 56} {L : Nat} (h : L < lengthBound) (hb : b.toNat < nblk L) :
    (b + 1).toNat = b.toNat + 1 := by
  have := nblk_le h
  rw [BitVec.toNat_add]
  simp
  omega

theorem t_succ {t : BitVec 7} (h : t.toNat < 127) : (t + 1).toNat = t.toNat + 1 := by
  rw [BitVec.toNat_add]
  simp
  omega

theorem quarter_lt {t : Nat} (h : t ≤ 79) : quarter t < 4 := by
  unfold quarter
  omega

theorem roundQuarter_of {t : Nat} {q : Fin 4} (h : quarter t = q.val) : roundQuarter t = q := by
  unfold roundQuarter
  rw [h]
  simp

theorem lastBlock_iff : lastBlock s = true ↔ s.blk.toNat + 1 = nblk s.LEN.toNat := by
  simp only [lastBlock, decide_eq_true_eq]

theorem padDefined_iff :
    padDefined s = true ↔ s.LEN.toNat < lengthBound ∧ wordIndex s + 3 < paddedLen s.LEN.toNat := by
  simp only [padDefined, Bool.and_eq_true, decide_eq_true_eq]

/-- Every slot of every block of a run is inside the padded message (41_padding_endianness.md R112, R118). -/
theorem padDefined_of_block (hl : s.LEN.toNat < lengthBound) (hb : s.blk.toNat < nblk s.LEN.toNat)
    (ht : s.t.toNat ≤ 15) : padDefined s = true := by
  rw [padDefined_iff]
  refine ⟨hl, ?_⟩
  unfold wordIndex paddedLen
  omega

/-- `PadByte` looks at the message only below `L` (41_padding_endianness.md R112). -/
theorem padByte_congr {L : Nat} {r1 r2 : Nat → Option Byte} {j : Nat} (h : j < L → r1 j = r2 j) :
    padByte L r1 j = padByte L r2 j := by
  unfold padByte
  split
  · exact h ‹_›
  · rfl

/-- LOADW where the port delivers its word. -/
theorem execLoadw_loads {x : Word} (hp : s.phase = .load) (ht : s.t.toNat ≤ 15) (hd : padDefined s = true)
    (hw : loadWord s = some x) : execLoadw s = .next (loadInto x s) := by
  unfold execLoadw
  rw [if_pos hp, if_pos ht, if_pos hd, hw]

/-- LOADW where the port is silent. -/
theorem execLoadw_silent (hp : s.phase = .load) (ht : s.t.toNat ≤ 15) (hd : padDefined s = true)
    (hw : loadWord s = none) : execLoadw s = .next s := by
  unfold execLoadw
  rw [if_pos hp, if_pos ht, if_pos hd, hw]

/-- The two forms of a rotation (40_primitives.md R91). -/
theorem rotl32_eq (x : Word) (n : Fin 32) : rotl32 x n = x.rotateLeft n.val := by
  unfold rotl32
  have := n.isLt
  split
  · rename_i h
    rw [h]
    apply BitVec.eq_of_getLsbD_eq
    intro i hi
    simp [hi]
  · rw [BitVec.rotateLeft_def, Nat.mod_eq_of_lt n.isLt]

theorem lenHigh_toNat (x : BitVec 64) : (lenHigh x).toNat = x.toNat / 2 ^ 32 := by
  have := x.isLt
  simp only [lenHigh, BitVec.extractLsb'_toNat, Nat.shiftRight_eq_div_pow]
  omega

theorem lenLow_toNat (x : BitVec 64) : (lenLow x).toNat = x.toNat % 2 ^ 32 := by
  simp [lenLow, BitVec.extractLsb'_toNat]

/-- Two halves make the length (10_state.md R33). -/
theorem halves_toNat (a b : Word) : (((a ++ b).cast (by decide) : BitVec 64)).toNat = a.toNat * 2 ^ 32 + b.toNat := by
  rw [BitVec.toNat_cast, BitVec.toNat_append, ← Nat.shiftLeft_add_eq_or_of_lt b.isLt, Nat.shiftLeft_eq]

end Sys2Proof.Machine
end

