-- ==== Sys2Proof/Laws/Run.lean ====
section
/-! SUPPORT. Runs of several steps through the host's interface, and what the message predicates depend on. -/

namespace Sys2Proof.Machine

/-- In the states of the invariant no phase is reserved, so `BUSY` reads as its flag (10_state.md R29). -/
theorem Inv.busy_eq {s : State} (h : Inv s) : busy s = s.BUSY := by
  apply busy_of_namedPhase
  have hp := h.position
  unfold positionOk at hp
  revert hp
  cases s.phase <;> simp [reservedPhase]

/-- A run that starts with a step. -/
theorem run_succ (k : Nat) {s s' : State} (h : step s = .next s') :
    Host.Core.run core (k + 1) s = Host.Core.run core k s' := by
  simp only [Host.Core.run]
  rw [show core.step s = .next s' from h]

theorem run_one {s s' : State} (h : step s = .next s') : Host.Core.run core 1 s = .next s' := by
  rw [run_succ 0 h]
  rfl

/-- A run in two parts. -/
theorem run_add (a b : Nat) {s s' : State} (h : Host.Core.run core a s = .next s') :
    Host.Core.run core (a + b) s = Host.Core.run core b s' := by
  induction a generalizing s with
  | zero => cases h; simp
  | succ a ih =>
    rw [show a + 1 + b = (a + b) + 1 by omega]
    simp only [Host.Core.run] at h ⊢
    cases hs : core.step s with
    | next x => rw [hs] at h; exact ih h
    | fault r => rw [hs] at h; cases h
    | refused r => rw [hs] at h; cases h

/-- What the core reads of a message depends on the length, the message space and the replaced bytes only. -/
theorem readsMessage_of_same {s s' : State} {m : List Byte} (h : ReadsMessage s m) (h1 : s'.LEN = s.LEN)
    (h2 : s'.MSG = s.MSG) (h3 : s'.stale = s.stale) : ReadsMessage s' m := by
  refine ⟨by rw [h1]; exact h.1, fun j hj => ?_⟩
  rw [← h.2 j hj]
  unfold msgRead
  rw [h2, h3]

end Sys2Proof.Machine
end

