-- ==== Sys2Proof/Tests/Slice0.lean ====
section
/-! SUPPORT. Tests on one word or one step, their expected values taken from spec/95_test_vectors.md and from the examples in
the rules, and one witness per statement that has hypotheses. -/

namespace Sys2Proof.Tests

open Sys2Proof Sys2Proof.Machine

/-! ## WellFormed -/

theorem test_wf_refuses_low_reserved : (Instr.rdreg (.reserved 8)).wf = false := by decide
theorem test_wf_refuses_high_reserved : (Instr.rdreg (.reserved 16)).wf = false := by decide
theorem test_wf_accepts_reserved : (Instr.rdreg (.reserved 9)).wf = true ∧ (Instr.rdreg (.reserved 15)).wf = true := by decide

/-! ## Decoding: words written out from the patterns of 30_encoding.md R74, ignored bits set where there are any -/

theorem test_decode_start :
    decodeHost 0b1_0000_1010101010101010_1010101010101011#37 = .instr .start := by decide
theorem test_decode_nop :
    decodeHost 0b1_0000_1010101010101010_1010101010101010#37 = .instr .nop := by decide
theorem test_decode_wrlenlo :
    decodeHost 0b1_0010_1101111010101101_1011111011101111#37 = .instr (.wrlenlo 0xDEADBEEF) := by decide
theorem test_decode_wrlenhi :
    decodeHost 0b1_0011_0010000000000000_0000000000000000#37 = .instr (.wrlenhi 0x20000000) := by decide
theorem test_decode_rdreg_digest :
    decodeHost 0b0_1000_1111111111111111_1111111111111111#37 = .instr (.rdreg (.digest 4)) := by decide
theorem test_decode_rdreg_reserved :
    decodeHost 0b0_1111_0000000000000000_0000000000000000#37 = .instr (.rdreg (.reserved 15)) := by decide
theorem test_decode_ignored_write :
    decodeHost 0b1_0001_1111111111111111_1111111111111111#37 = .reject (.ignoredWrite .status) := by decide
theorem test_decode_micro :
    decodeUsel 0b001_00#5 = .instr .loadw ∧ decodeUsel 0b010_00#5 = .instr .seed ∧
    decodeUsel 0b011_00#5 = .instr .rnd0 ∧ decodeUsel 0b011_01#5 = .instr .rnd1 ∧
    decodeUsel 0b011_10#5 = .instr .rnd2 ∧ decodeUsel 0b011_11#5 = .instr .rnd3 ∧
    decodeUsel 0b100_00#5 = .instr .fold := by decide
theorem test_decode_reserved_selector :
    decodeUsel 0b101_00#5 = .reject (.reservedSelector 0b101_00#5) ∧
    decodeUsel 0b001_01#5 = .reject (.reservedSelector 0b001_01#5) := by decide

/-- Records of 95_test_vectors.md P1 and P4. -/
theorem test_encode_records :
    encode (.wrlenlo 3) = .host 0x1200000003 ∧ encode (.wrlenhi 0x20000000) = .host 0x1320000000 ∧
    encode .start = .host 0x1000000001 ∧ encode (.rdreg .status) = .host 0x0100000000 ∧
    encode (.rdreg (.digest 4)) = .host 0x0800000000 := by decide

/-! ## Primitives, padding, schedule (95_test_vectors.md T9, T10, T11, T14) -/

theorem test_rotl :
    rotl32 0x80000001#32 1 = 0x00000003#32 ∧ rotl32 0x12345678#32 0 = 0x12345678#32 ∧
    rotl32 0x12345678#32 5 = 0x468ACF02#32 ∧ rotl32 0x12345678#32 30 = 0x048D159E#32 ∧
    rotl32 0x12345678#32 31 = 0x091A2B3C#32 := by decide
theorem test_add_wraps : add32 0xFFFFFFFF#32 1#32 = 0 ∧ add32 0x67452301#32 0x42541B35#32 = 0xA9993E36#32 := by decide
theorem test_bswap : bswap32 0x12345678#32 = 0x78563412#32 ∧ bswap32 0xFF000000#32 = 0x000000FF#32 := by decide
theorem test_round_functions :
    f0 0xF0F0F0F0#32 0xCCCCCCCC#32 0xAAAAAAAA#32 = 0xCACACACA#32 ∧
    f1 0xF0F0F0F0#32 0xCCCCCCCC#32 0xAAAAAAAA#32 = 0x96969696#32 ∧
    f2 0xF0F0F0F0#32 0xCCCCCCCC#32 0xAAAAAAAA#32 = 0xE8E8E8E8#32 ∧
    f3 0xF0F0F0F0#32 0xCCCCCCCC#32 0xAAAAAAAA#32 = 0x96969696#32 := by decide
theorem test_quarter_boundaries :
    [0, 19, 20, 39, 40, 59, 60, 79].map quarter = [0, 0, 1, 1, 2, 2, 3, 3] := by decide
theorem test_nblk :
    [0, 55, 56, 64, 119, 120, 4294967296, 2305843009213693951].map nblk =
      [1, 1, 2, 2, 2, 3, 67108865, 36028797018963969] := by decide
theorem test_pad_bytes :
    ((paddedMessage [0x61, 0x62, 0x63]).drop 2).take 3 = [0x63, 0x80, 0x00] := by decide
theorem test_pad_length_bytes :
    [126, 127].map (padByte 56 (fun _ => some 0x61)) = [some 0x01, some 0xC0] ∧
    padByte 56 (fun _ => some 0x61) 56 = some 0x80 := by decide
theorem test_adapt :
    packHost 0x61 0x62 0x63 0x80 true = 0x80636261#32 ∧ adapt 0x80636261#32 true = 0x61626380#32 ∧
    packHost 0x61 0x62 0x63 0x80 false = 0x61626380#32 ∧ adapt 0x61626380#32 false = 0x61626380#32 := by decide

/-- The block of the empty message (95_test_vectors.md T14). -/
def emptyBlock : Vector Word 16 := #v[0x80000000, 0, 0, 0, 0, 0, 0, 0, 0, 0, 0, 0, 0, 0, 0, 0]

theorem test_schedule : (scheduleTo emptyBlock 4).drop 16 = [0x00000001, 0x00000000, 0x00000000, 0x00000002] := by decide

/-! ## States the tests start from -/

/-- The message "abc" in place and its length written (95_test_vectors.md P1). -/
def abcReady : State := { State.reset with LEN := 3, MSG := [(0, 0x61), (1, 0x62), (2, 0x63)] }

/-- The run on "abc" just started (95_test_vectors.md P1, line 3). -/
def abcLoad : State := beginRun abcReady

/-- The `abc` run in another phase. -/
def abcAt (p : Phase) (t : BitVec 7) : State := { abcLoad with phase := p, t := t }

/-- A round of the `abc` run (95_test_vectors.md T7): position, working variables, four slots of the buffer. -/
def abcRound (t : BitVec 7) (a b c d e : Word) (w3 w8 w14 w16 : Word) : State :=
  let W := slotWrite (slotWrite abcLoad.W (t.toNat - 3) w3) (t.toNat - 8) w8
  { abcAt .round t with wv := { a := a, b := b, c := c, d := d, e := e }
                        W := slotWrite (slotWrite W (t.toNat - 14) w14) t.toNat w16 }

/-- What a test looks at after one step. -/
def after (o : Host.Outcome State Fault Refusal) (p : State → Bool) : Bool :=
  match o with
  | .next s => p s
  | .fault _ => false
  | .refused _ => false

/-! ## One step of each operation -/

/-- 95_test_vectors.md T16, first line; 44_driver_host.md R161. -/
theorem test_start_accepted :
    after (exec .start { State.reset with LEN := 0x1FFFFFFFFFFFFFFF }) (fun s =>
      statusWord s == 1 && s.phase == .load && s.H[0] == 0x67452301 && s.H[4] == 0xC3D2E1F0) = true := by decide
/-- 95_test_vectors.md T16, second line, with `DONE = 1` before: 2 becomes 4. -/
theorem test_start_refused :
    after (exec .start { State.reset with LEN := 0x2000000000000000, DONE := true }) (fun s =>
      statusWord s == 4 && s.phase == .idle) = true := by decide
/-- 44_driver_host.md R163: `WR CTRL, 0xFFFFFFFE` changes nothing. -/
theorem test_nop :
    after (step { abcReady with agenda := [.txn 0x10FFFFFFFE] }) (fun s => s == abcReady) = true := by decide
/-- 95_test_vectors.md T15. -/
theorem test_wrlen :
    after (exec (.wrlenlo 0xDEADBEEF) { State.reset with LEN := 0x100000000 }) (fun s =>
      s.LEN == 0x00000001DEADBEEF) = true := by decide
theorem test_wrlenhi :
    after (exec (.wrlenhi 0x00000001) { State.reset with LEN := 0xDEADBEEF }) (fun s =>
      s.LEN == 0x00000001DEADBEEF) = true := by decide
/-- 95_test_vectors.md T15 and P3, line 3: a length write while `BUSY = 1` is ignored. -/
theorem test_wrlenlo_busy :
    after (exec (.wrlenlo 3) { abcLoad with LEN := 56 }) (fun s => s.LEN == 56) = true := by decide
/-- 95_test_vectors.md T15. -/
theorem test_rdreg_digest :
    after (exec (.rdreg (.digest 0)) { State.reset with DONE := true, H := #v[0xA9993E36, 0, 0, 0, 0] }) (fun s =>
      s.reply == some 0xA9993E36) = true := by decide
theorem test_rdreg_status :
    after (exec (.rdreg .status) { State.reset with DONE := true }) (fun s => s.reply == some 2) = true := by decide
/-- 41_padding_endianness.md R118, example. -/
theorem test_loadw_first :
    after (exec .loadw abcLoad) (fun s => slotRead s.W 0 == 0x61626380 && s.t == 1 && s.phase == .load) = true := by decide
theorem test_loadw_last :
    after (exec .loadw (abcAt .load 15)) (fun s => slotRead s.W 15 == 0x00000018 && s.t == 15 && s.phase == .seed) = true := by
  decide
/-- 43_compression.md R140, example. -/
theorem test_seed :
    after (exec .seed (abcAt .seed 15)) (fun s =>
      s.wv == { a := 0x67452301, b := 0xEFCDAB89, c := 0x98BADCFE, d := 0x10325476, e := 0xC3D2E1F0 } &&
      s.t == 0 && s.phase == .round) = true := by decide
/-- 43_compression.md R142, example at `t = 0`. -/
theorem test_rnd0_first :
    after (exec .rnd0 (abcRound 0 0x67452301 0xEFCDAB89 0x98BADCFE 0x10325476 0xC3D2E1F0 0 0 0 0x61626380)) (fun s =>
      s.wv == { a := 0x0116FC33, b := 0x67452301, c := 0x7BF36AE2, d := 0x98BADCFE, e := 0x10325476 } && s.t == 1) = true := by
  decide
/-- 43_compression.md R142, `t = 19`: the entry `85898E01` is `w[16] = C2C4C700` rotated, and replaces slot 3. -/
theorem test_rnd0_last :
    after (exec .rnd0 (abcRound 19 0xDC64901D 0x82AA6728 0xD3A49608 0xC82F758B 0xC65AFB9D 0xC2C4C700 0 0 0)) (fun s =>
      slotRead s.W 3 == 0x85898E01 && s.wv.a == 0xFD9E1D7D && s.t == 20) = true := by decide
/-- 43_compression.md R143, example at `t = 20`. -/
theorem test_rnd1 :
    after (exec .rnd1 (abcRound 20 0xFD9E1D7D 0xDC64901D 0x20AA99CA 0xD3A49608 0xC82F758B 0 0 0 0)) (fun s =>
      s.wv == { a := 0x1A37B0CA, b := 0xFD9E1D7D, c := 0x77192407, d := 0x20AA99CA, e := 0xD3A49608 }) = true := by decide
/-- 43_compression.md R144, example at `t = 40`; the four entries from 95_test_vectors.md T7. -/
theorem test_rnd2 :
    after (exec .rnd2 (abcRound 40 0x32DE1CBA 0x4C986405 0xF718E5CF 0x03D447F6 0xF72EEC32
      0x626380A1 0x8E9A9202 0x00000000 0x85898EC1)) (fun s => slotRead s.W 8 == 0xD2E138C4 &&
      s.wv == { a := 0xFC87DEDF, b := 0x32DE1CBA, c := 0x53261901, d := 0xF718E5CF, e := 0x03D447F6 }) = true := by decide
/-- 43_compression.md R145, example at `t = 60`. -/
theorem test_rnd3_first :
    after (exec .rnd3 (abcRound 60 0x3F52DE5A 0x09D785FD 0x3498BFD4 0xF211824F 0xD79915AB
      0x62658CA1 0x3835B44B 0x053A37CD 0xE2BA3C2B)) (fun s => slotRead s.W 12 == 0x7BA06619 &&
      s.wv == { a := 0xD756C147, b := 0x3F52DE5A, c := 0x4275E17F, d := 0x3498BFD4, e := 0xF211824F }) = true := by decide
/-- 43_compression.md R145, last round, `t = 79`. -/
theorem test_rnd3_last :
    after (exec .rnd3 (abcRound 79 0x5738D5E1 0x860D21CC 0x681E6DF6 0xD8FDF6AD 0xD7B9DA25
      0xE6E60B69 0x458546F4 0x000F0000 0x627B49A1)) (fun s => s.phase == .fold && s.t == 79 &&
      s.wv == { a := 0x42541B35, b := 0x5738D5E1, c := 0x21834873, d := 0x681E6DF6, e := 0xD8FDF6AD }) = true := by decide
/-- 43_compression.md R146, example: the digest of "abc". -/
theorem test_fold_last :
    after (exec .fold { abcAt .fold 79 with
      wv := { a := 0x42541B35, b := 0x5738D5E1, c := 0x21834873, d := 0x681E6DF6, e := 0xD8FDF6AD } }) (fun s =>
      s.H == #v[0xA9993E36, 0x4706816A, 0xBA3E2571, 0x7850C26C, 0x9CD0D89D] && statusWord s == 2 &&
      s.phase == .idle && s.t == 79) = true := by decide
/-- 95_test_vectors.md P3: with 56 bytes the first FOLD goes on to block 1. -/
theorem test_fold_goes_on :
    after (exec .fold { abcAt .fold 79 with LEN := 56 }) (fun s =>
      s.phase == .load && s.blk == 1 && s.t == 0 && statusWord s == 1) = true := by decide
/-- 70_reset_and_hazards.md R200, R201: reset during a run. -/
theorem test_reset_event :
    after (step { abcLoad with agenda := [.reset] }) (fun s =>
      statusWord s == 0 && s.phase == .idle && s.LEN == 0 && s.MSG == abcLoad.MSG) = true := by decide
/-- 30_encoding.md R78: a START in a reserved phase changes nothing, though the flag `BUSY` is 0. -/
theorem test_start_in_reserved_phase :
    after (exec .start { abcReady with phase := .reserved5 }) (fun s => s == { abcReady with phase := .reserved5 }) = true := by
  decide
/-- 20_memory.md R52: an empty message space does not answer, and the step does not happen. -/
theorem test_loadw_waits : after (exec .loadw { abcLoad with MSG := [] }) (fun s => s == { abcLoad with MSG := [] }) = true := by
  decide
/-- 44_driver_host.md R168, example. -/
theorem test_digest_bytes :
    (digestBytes #v[0xA9993E36, 0x4706816A, 0xBA3E2571, 0x7850C26C, 0x9CD0D89D]).take 6 =
      [0xa9, 0x99, 0x3e, 0x36, 0x47, 0x06] := by decide

/-! ## A placed word is the next instruction run (log entry 13) -/

theorem test_place_start : step (State.reset.withFetchWord 40 0x1000000001) = exec .start State.reset := rfl
theorem test_place_loadw :
    step (State.reset.withFetchWord 8 0x04) = exec .loadw { State.reset with phase := .load } := rfl
theorem test_place_rnd2 :
    step (State.reset.withFetchWord 8 0x0E) = exec .rnd2 { State.reset with phase := .round, t := 40 } := rfl
theorem test_place_fold :
    step (State.reset.withFetchWord 8 0x10) = exec .fold { State.reset with phase := .fold } := rfl

/-! ## Witnesses: concrete states and operands that meet the hypotheses of each statement, clause by clause -/

/-- The run on "abc" with an event ahead. -/
def abcWith (e : Event) : State := { abcLoad with agenda := [e] }

/-- The message "abc". -/
def abcMsg : List Byte := [0x61, 0x62, 0x63]

/-- 56 bytes "a" in place, length written: a message of two blocks (95_test_vectors.md P3). -/
def twoBlocks : State :=
  { State.reset with LEN := 56, MSG := (List.range 56).map (fun j => (j, 0x61#8)) }

/-- The run on "abc" has ended. -/
def abcDone : State := { State.reset with LEN := 3, MSG := abcReady.MSG, DONE := true, H := sha1State abcMsg }

theorem witness_DecodeOfEncodeIsTheInstruction :
    (Instr.rdreg (.reserved 15)).wf = true ∧ (Instr.rdreg (.digest 4)).wf = true ∧
    (Instr.wrlenlo 0xFFFFFFFF).wf = true := by decide

theorem witness_DecodedInstructionIsWellFormed :
    decode (.host 0x0F00000000) = .instr (.rdreg (.reserved 15)) ∧ decodeHost 0x1000000001 = .instr .start ∧
    decodeUsel 0x10 = .instr .fold := by decide

theorem witness_EncodeOfDecodeKeepsTheCareBits :
    decodeHost 0x1FFFFFFFFF = .reject (.ignoredWrite (.reserved 15)) ∧ decodeHost 0x10FFFFFFFF = .instr .start ∧
    decodeUsel 0x0F = .instr .rnd3 := by decide

theorem witness_SelectorNamesTheEnabledStep :
    (abcAt .round 79).t.toNat ≤ 79 ∧ (abcAt .round 0).t.toNat ≤ 79 ∧ (abcAt .fold 79).phase ≠ .round := by decide

theorem witness_StepRunsTheDecodedTransaction :
    (abcWith (.txn 0x1000000001)).agenda = .txn 0x1000000001 :: [] ∧ decodeHost 0x1000000001 = .instr .start ∧
    (abcWith (.txn 0x1100000000)).agenda = .txn 0x1100000000 :: [] ∧
    decodeHost 0x1100000000 = .reject (.ignoredWrite .status) := by decide

theorem witness_StepRunsTheSelectedMicroOperation :
    (abcWith .core).agenda = .core :: [] ∧ abcLoad.agenda = [] ∧
    usel abcLoad = some 0x04 ∧ decodeUsel 0x04 = .instr .loadw ∧
    usel State.reset = some 0 ∧ decodeUsel 0 = .reject .idleSelector ∧
    usel (abcAt .reserved7 0) = some 0x1C ∧ decodeUsel 0x1C = .reject (.reservedSelector 0x1C) ∧
    usel (abcAt .round 80) = none := by decide

theorem witness_PlacedWordIsTheNextInstruction :
    decodeTableWord 5 0x10 = some .fold ∧ decodeTableWord 37 0x1300000000 = some (.wrlenhi 0) := by decide

theorem witness_IgnoredWritesChangeNothing :
    (abcWith (.txn (makeRecord true 1 0xFFFFFFFF))).agenda = .txn (makeRecord true 1 0xFFFFFFFF) :: [] ∧
    (abcWith (.txn (makeRecord true 4 0))).agenda = .txn (makeRecord true 4 0) :: [] ∧ 4 ≤ (4#4).toNat ∧
    (abcWith (.txn (makeRecord true 15 1))).agenda = .txn (makeRecord true 15 1) :: [] ∧ 4 ≤ (15#4).toNat := by decide

/-- The invariant holds in a run, not at reset alone. -/
theorem abcLoad_inv : Inv abcLoad := by constructor <;> decide

theorem abcDone_inv : Inv { State.reset with DONE := true } := by constructor <;> decide

theorem abcReady_refused_inv : Inv (raiseInputTooLarge { abcReady with LEN := 0x2000000000000000 }) := by
  constructor <;> decide

theorem abcAt_inv : Inv (abcAt .load 15) ∧ Inv (abcAt .seed 15) ∧ Inv (abcAt .round 0) ∧ Inv (abcAt .round 79) ∧
    Inv (abcAt .fold 79) := by
  refine ⟨?_, ?_, ?_, ?_, ?_⟩ <;> constructor <;> decide

theorem witness_EveryStepKeepsTheInvariant : Inv abcLoad ∧ ∃ s', step abcLoad = .next s' := ⟨abcLoad_inv, _, rfl⟩

theorem witness_NoStepFromTheInvariantStops : Inv abcLoad := abcLoad_inv

theorem witness_OnlyTheHostWritesTheMessageSpace :
    (∃ s', step (abcWith (.place 7 0x61)) = .next s') ∧ nextEvent (abcWith (.place 7 0x61)) = .place 7 0x61 ∧
    (∃ s', step abcLoad = .next s') ∧ nextEvent abcLoad = .core := ⟨⟨_, rfl⟩, rfl, ⟨_, rfl⟩, rfl⟩

theorem witness_PlacedByteIsReadOrRaces :
    (abcWith (.place 2 0x64)).agenda = .place 2 0x64 :: [] ∧ (abcWith (.place 2 0x64)).stale = [] ∧
    (abcWith (.place 3 0x64)).LEN.toNat ≤ (3#64).toNat ∧ abcReady.BUSY = false := by decide

theorem witness_ConfigurationNeverChanges : ∃ s', step abcLoad = .next s' := ⟨_, rfl⟩

theorem witness_LengthIsConstantDuringARun :
    (abcWith (.txn 0x1200000005)).BUSY = true ∧ nextEvent (abcWith (.txn 0x1200000005)) = .txn 0x1200000005 ∧
    ∃ s', step (abcWith (.txn 0x1200000005)) = .next s' := ⟨rfl, rfl, _, rfl⟩

theorem witness_DatapathIsWrittenOnlyByItsWriters :
    ∃ s1 s2 s3, step { abcReady with agenda := [.txn 0x1000000001] } = .next s1 ∧ s1.H ≠ abcReady.H ∧
      step (abcAt .seed 15) = .next s2 ∧ s2.wv ≠ (abcAt .seed 15).wv ∧
      step abcLoad = .next s3 ∧ s3.W ≠ abcLoad.W := by
  refine ⟨_, _, _, rfl, ?_, rfl, ?_, rfl, ?_⟩ <;> decide

theorem witness_FlagsChangeOnlyByTheirWriters :
    ∃ s1 s2 s3, step { abcReady with agenda := [.txn 0x1000000001] } = .next s1 ∧ s1.BUSY ≠ abcReady.BUSY ∧
      step (abcAt .fold 79) = .next s2 ∧ s2.DONE ≠ (abcAt .fold 79).DONE ∧
      step { abcReady with LEN := 0x2000000000000000, agenda := [.txn 0x1000000001] } = .next s3 ∧
        s3.ERR ≠ abcReady.ERR := by
  refine ⟨_, _, _, rfl, ?_, rfl, ?_, rfl, ?_⟩ <;> decide

theorem witness_OnlyAnAcceptedStartLeavesIdle :
    ∃ s1, step { abcReady with agenda := [.txn 0x1000000001] } = .next s1 ∧ abcReady.phase = .idle ∧ s1.phase ≠ .idle := by
  refine ⟨_, rfl, ?_, ?_⟩ <;> decide

theorem witness_ResetLeavesTheControlState : (abcWith .reset).agenda = .reset :: [] := rfl

theorem witness_AcceptedStartBeginsARun :
    busy abcReady = false ∧ ({ abcReady with LEN := 0x1FFFFFFFFFFFFFFF }).LEN.toNat < 2 ^ 61 := by decide

theorem witness_RefusedStartRaisesInputTooLarge :
    busy abcReady = false ∧ abcReady.phase = .idle ∧ 2 ^ 61 ≤ ({ abcReady with LEN := 0x2000000000000000 }).LEN.toNat := by decide

theorem witness_StartWhileBusyIsIgnored :
    abcLoad.BUSY = true ∧ (abcAt .fold 79).BUSY = true ∧ ∃ s', step (abcAt .fold 79) = .next s' ∧ s'.BUSY = false :=
  ⟨rfl, rfl, _, rfl, rfl⟩

theorem witness_NopChangesNothing :
    (0xFFFFFFFE#32).getLsbD 0 = false ∧
    (abcWith (.txn (makeRecord true 0 0xFFFFFFFE))).agenda = .txn (makeRecord true 0 0xFFFFFFFE) :: [] := by decide

theorem witness_LengthHalvesAreWritten : busy abcReady = false ∧ abcLoad.BUSY = true := by decide

theorem witness_RegisterReadsReturnTheirContent :
    abcDone.DONE = true ∧ reservedPhase abcDone.phase = false := ⟨rfl, rfl⟩

theorem witness_StatusReadsZeroOneTwoOrFour :
    Inv State.reset ∧ Inv abcLoad ∧ Inv { State.reset with DONE := true } ∧
    Inv (raiseInputTooLarge { abcReady with LEN := 0x2000000000000000 }) :=
  ⟨by constructor <;> decide, abcLoad_inv, abcDone_inv, abcReady_refused_inv⟩

theorem abcLoad_reads (p : Phase) (t : BitVec 7) : ReadsMessage (abcAt p t) abcMsg :=
  ⟨rfl, fun j hj => match j, hj with
    | 0, _ => rfl
    | 1, _ => rfl
    | 2, _ => rfl⟩

theorem witness_LoadwLoadsTheBlockWord :
    (abcAt .load 0).phase = .load ∧ (abcAt .load 0).t.toNat ≤ 15 ∧ (abcAt .load 0).blk.toNat < nblk abcMsg.length ∧
    abcMsg.length < 2 ^ 61 ∧ ReadsMessage (abcAt .load 0) abcMsg ∧
    (abcAt .load 15).t.toNat = 15 ∧ ReadsMessage (abcAt .load 15) abcMsg :=
  ⟨rfl, by decide, by decide, by decide, abcLoad_reads _ _, rfl, abcLoad_reads _ _⟩

theorem witness_LoadwWaitsForTheMessagePort :
    let s := { abcLoad with MSG := [(0, 0x61), (1, 0x62)] }
    s.phase = .load ∧ s.t.toNat ≤ 15 ∧ s.LEN.toNat < 2 ^ 61 ∧ s.blk.toNat < nblk s.LEN.toNat ∧
    64 * s.blk.toNat + 4 * s.t.toNat + 2 < s.LEN.toNat ∧
    msgRead s (64 * s.blk.toNat + 4 * s.t.toNat + 2) = none := by decide

theorem witness_MessageIsReadOnceInOrder :
    (∃ s', exec .loadw abcLoad = .next s') ∧
    ∀ a ∈ loadAddresses abcLoad.LEN.toNat abcLoad.blk.toNat abcLoad.t.toNat,
      Memory.read (abcLoad.MSG.write 3 0xFF) a = abcLoad.MSG.read a := ⟨⟨_, rfl⟩, by decide⟩

theorem witness_LoadwIgnoresTheHostByteOrder : ∃ s', exec .loadw abcLoad = .next s' := ⟨_, rfl⟩

theorem witness_SeedCopiesTheState : (abcAt .seed 15).phase = .seed := rfl

theorem witness_Rnd0IsARoundOfTheFirstQuarter :
    (abcAt .round 0).phase = .round ∧ (abcAt .round 0).t.toNat ≤ 19 ∧ (abcAt .round 16).t.toNat ≤ 19 ∧
    (abcAt .round 19).t.toNat ≤ 19 := by decide

theorem witness_Rnd1IsARoundOfTheSecondQuarter :
    (abcAt .round 20).phase = .round ∧ 20 ≤ (abcAt .round 20).t.toNat ∧ (abcAt .round 39).t.toNat ≤ 39 := by decide

theorem witness_Rnd2IsARoundOfTheThirdQuarter :
    (abcAt .round 40).phase = .round ∧ 40 ≤ (abcAt .round 40).t.toNat ∧ (abcAt .round 59).t.toNat ≤ 59 := by decide

theorem witness_Rnd3IsARoundOfTheFourthQuarter :
    (abcAt .round 60).phase = .round ∧ 60 ≤ (abcAt .round 60).t.toNat ∧ (abcAt .round 78).t.toNat < 79 ∧
    (abcAt .round 79).t.toNat = 79 := by decide

theorem witness_FoldAddsAndGoesOn :
    (abcAt .fold 79).phase = .fold ∧ (abcAt .fold 79).blk.toNat + 1 = nblk (abcAt .fold 79).LEN.toNat ∧
    ({ abcAt .fold 79 with LEN := 56 }).blk.toNat + 1 ≠ nblk ({ abcAt .fold 79 with LEN := 56 }).LEN.toNat := by decide

theorem witness_MicroOperationsStopWhereNotEnabled :
    (abcAt .fold 79).phase ≠ .load ∧ (abcAt .fold 79).phase ≠ .seed ∧ (abcAt .load 0).phase ≠ .fold ∧
    (abcAt .round 20).t.toNat / 20 ≠ 0 ∧ (abcAt .round 19).t.toNat / 20 ≠ 1 ∧ (abcAt .round 60).t.toNat / 20 ≠ 2 ∧
    (abcAt .round 59).t.toNat / 20 ≠ 3 := by decide

theorem witness_NextPositionTable :
    (Inv State.reset ∧ State.reset.phase = .idle ∧ nextEvent State.reset = .core) ∧
    (Inv abcLoad ∧ loadWord abcLoad ≠ none ∧ abcLoad.t.toNat < 15) ∧
    (Inv (abcAt .load 15) ∧ loadWord (abcAt .load 15) ≠ none) ∧ Inv (abcAt .seed 15) ∧ Inv (abcAt .round 0) ∧
    Inv (abcAt .round 79) ∧ Inv (abcAt .fold 79) ∧
    (Inv { abcAt .fold 79 with LEN := 56 } ∧ 0 + 1 < nblk 56) := by
  refine ⟨⟨by constructor <;> decide, rfl, rfl⟩, ⟨abcLoad_inv, by decide, by decide⟩, ⟨abcAt_inv.1, by decide⟩,
    abcAt_inv.2.1, abcAt_inv.2.2.1, abcAt_inv.2.2.2.1, abcAt_inv.2.2.2.2, by constructor <;> decide, by decide⟩

theorem witness_RotationMovesEachBit : (31 : Nat) < 32 ∧ (1 : Nat) ≤ 1 ∧ (1 : Nat) ≤ 31 ∧ (31 : Nat) ≤ 31 := by decide

theorem witness_ByteSwapReversesTheBytes : (0 : Nat) < 4 ∧ (3 : Nat) < 4 := by decide

theorem witness_RoundFunctionsMatchTheTextbookForms : (0 : Nat) < 32 ∧ (31 : Nat) < 32 := by decide

theorem witness_PaddedLengthIsTheLeastMultiple :
    (2 ^ 61 - 1 : Nat) < 2 ^ 61 ∧ 128 % 64 = 0 ∧ 56 + 9 ≤ 128 ∧ 56 % 64 = 56 := by decide

theorem witness_PadByteIsTheBytePadded : abcMsg.length < 2 ^ 61 ∧ 0 < paddedLen abcMsg.length ∧
    63 < paddedLen abcMsg.length := by decide

theorem witness_LastTwoWordsAreTheBitLength : abcMsg.length < 2 ^ 61 := by decide

theorem witness_ScheduleFollowsItsRecurrence : (15 : Nat) < 16 ∧ (16 : Nat) ≤ 16 ∧ (79 : Nat) < 80 := by decide

/-- A buffer that holds any 16 entries in a row, each in its slot. -/
theorem window_of_entries (w : Nat → Word) (t : Nat) (ht : t % 16 = 0) (h16 : 16 ≤ t) :
    RollingWindow (Vector.ofFn (fun i : Fin 16 => w (t - 16 + i.val))) w t := by
  intro i h1 h2
  have hi : i % 16 < 16 := Nat.mod_lt _ (by decide)
  simp only [slotRead, Vector.getElem_ofFn]
  congr 1
  omega

theorem witness_RollingBufferHoldsTheWindow :
    (∃ W, RollingWindow W (schedEntry emptyBlock) 16 ∧ 16 ≤ 79) ∧ ∃ W, RollingWindow W (schedEntry emptyBlock) 80 :=
  ⟨⟨_, window_of_entries _ 16 rfl (by decide), by decide⟩, _, window_of_entries _ 80 rfl (by decide)⟩

theorem witness_WorkingVariablesAreTheLastFiveValuesOfA : (4 : Nat) ≤ 4 := by decide

theorem witness_DigestIsTwentyBytesBigEndian : (4 : Nat) < 5 ∧ (3 : Nat) < 4 := by decide

theorem twoBlocks_reads : ReadsMessage (beginRun twoBlocks) (List.replicate 56 0x61#8) :=
  ⟨rfl, by decide⟩

theorem witness_BlockOfStepsIsCompress :
    abcLoad.agenda = [] ∧ abcLoad.phase = .load ∧ abcLoad.t = 0 ∧ abcMsg.length < 2 ^ 61 ∧
    abcLoad.blk.toNat + 1 = nblk abcMsg.length ∧ ReadsMessage abcLoad abcMsg ∧
    (beginRun twoBlocks).blk.toNat + 1 < nblk (List.replicate 56 0x61#8).length ∧
    ReadsMessage (beginRun twoBlocks) (List.replicate 56 0x61#8) :=
  ⟨rfl, rfl, rfl, by decide, by decide, abcLoad_reads .load 0, by decide, twoBlocks_reads⟩

theorem abcReady_has : HasMessage abcReady abcMsg :=
  ⟨rfl, fun j hj => match j, hj with
    | 0, _ => rfl
    | 1, _ => rfl
    | 2, _ => rfl⟩

theorem witness_StartEntersTheRun : busy abcReady = false ∧ abcMsg.length < 2 ^ 61 ∧ HasMessage abcReady abcMsg :=
  ⟨rfl, by decide, abcReady_has⟩

theorem witness_EveryStepKeepsTheRunOnItsWay :
    OnRun abcMsg abcLoad ∧ disturbs abcMsg.length (nextEvent abcLoad) = false ∧
    OnRun abcMsg (abcWith (.place 3 0xFF)) ∧ disturbs abcMsg.length (.place 3 0xFF) = false := by
  have h : ∀ e, OnRun abcMsg (abcWith e) := fun e =>
    ⟨⟨rfl, (abcLoad_reads .load 0).2⟩, by decide, ⟨rfl, rfl, rfl⟩, abcLoad_inv.block rfl, rfl, Nat.zero_le 15,
      fun i hi => absurd hi (Nat.not_lt_zero i)⟩
  refine ⟨⟨abcLoad_reads .load 0, by decide, by decide, by decide, rfl, by decide, fun i hi => absurd hi (Nat.not_lt_zero i)⟩,
    rfl, h _, rfl⟩

theorem witness_RunEndsWithTheDigest :
    busy abcReady = false ∧ abcReady.agenda = [] ∧ abcMsg.length < 2 ^ 61 ∧ HasMessage abcReady abcMsg :=
  ⟨rfl, rfl, by decide, abcReady_has⟩

theorem witness_HostProcedureComputesSha1 :
    (let s := { abcReady with LEN := 0, agenda := scriptSha1 abcMsg.length (98 * nblk abcMsg.length) 1 }
     busy s = false ∧ abcMsg.length < 2 ^ 61 ∧ (∀ j (h : j < abcMsg.length), s.MSG.read j = some abcMsg[j]) ∧
     s.agenda = scriptSha1 abcMsg.length (98 * nblk abcMsg.length) 1) ∧
    (let s := { abcReady with agenda := scriptSha1 (2 ^ 64 - 1) 0 1 }
     s.BUSY = false ∧ s.phase = .idle ∧ 2 ^ 61 ≤ 2 ^ 64 - 1 ∧ 2 ^ 64 - 1 < 2 ^ 64 ∧
     s.agenda = scriptSha1 (2 ^ 64 - 1) 0 1) :=
  ⟨⟨rfl, by decide, abcReady_has.2, rfl⟩, rfl, rfl, by decide, by decide, rfl⟩

theorem witness_DigestStaysReadable :
    HoldsDigest abcMsg abcDone ∧ discards (nextEvent abcDone) = false ∧
    HoldsDigest abcMsg { abcDone with agenda := [.txn 0x1200000005] } ∧ discards (.txn 0x1200000005) = false :=
  ⟨⟨⟨rfl, rfl, rfl⟩, rfl, rfl⟩, rfl, ⟨⟨rfl, rfl, rfl⟩, rfl, rfl⟩, by decide⟩

theorem witness_NoStateLeaksIntoARun :
    let s' := { abcReady with hostLE := false, H := #v[1, 2, 3, 4, 5], t := 9, DONE := true }
    busy abcReady = false ∧ busy s' = false ∧ abcReady.agenda = [] ∧ s'.agenda = [] ∧
    abcReady.LEN.toNat < 2 ^ 61 ∧ s'.LEN = abcReady.LEN ∧ s'.MSG = abcReady.MSG := by
  refine ⟨rfl, rfl, rfl, rfl, by decide, rfl, rfl⟩

/-- Each reserved phase, with the flag 0 and 1, on a host transaction, and on a reset (30_encoding.md R78). -/
theorem witness_ReservedPhaseIsStuckUntilReset :
    (let s := { State.reset with phase := .reserved5, agenda := [.txn 0x1000000001] }
     reservedPhase s.phase = true ∧ nextEvent s ≠ .reset ∧ s.BUSY = false) ∧
    (reservedPhase (abcAt .reserved6 0).phase = true ∧ nextEvent (abcAt .reserved6 0) ≠ .reset ∧
      (abcAt .reserved6 0).BUSY = true) ∧
    (let s := { State.reset with phase := .reserved7, agenda := [.reset] }
     reservedPhase s.phase = true ∧ nextEvent s = .reset) := by decide

end Sys2Proof.Tests
end

section
/-! The bytes of the padded message, and the word a LOADW of a run loads (41_padding_endianness.md R111 to R119). -/

namespace Sys2Proof.Machine

/-- The padded message has `P` bytes (41_padding_endianness.md R110, R111). -/
theorem paddedMessage_length (m : List Byte) : (paddedMessage m).length = paddedLen m.length := by
  simp only [paddedMessage, List.length_append, List.length_cons, List.length_nil, List.length_replicate,
    List.length_map, List.length_range, paddedLen, nblk]
  omega

/-- `PadByte(j)` is byte `j` of the padded message, whatever the port reads the message through (41_padding_endianness.md
R112). -/
theorem padByte_eq_paddedByte {m : List Byte} {read : Nat → Option Byte} (hr : ∀ i (h : i < m.length), read i = some m[i])
    {j : Nat} (hj : j < paddedLen m.length) : padByte m.length read j = some (paddedByte m j) := by
  have hP : m.length + 9 ≤ paddedLen m.length := by
    unfold paddedLen nblk
    omega
  have hget : some (paddedByte m j) = (paddedMessage m)[j]? := by
    have hj' : j < (paddedMessage m).length := by rwa [paddedMessage_length]
    rw [paddedByte, List.getD_eq_getElem _ _ hj', List.getElem?_eq_getElem hj']
  rw [hget, paddedMessage, List.append_assoc, List.append_assoc]
  unfold padByte
  split
  · rename_i hm
    rw [hr j hm, List.getElem?_append_left hm, List.getElem?_eq_getElem hm]
  · rename_i hm
    rw [List.getElem?_append_right (by omega)]
    split
    · subst j
      rw [Nat.sub_self]
      rfl
    · rw [List.getElem?_append_right (by rw [List.length_singleton]; omega), List.length_singleton]
      split
      · rw [List.getElem?_append_left (by rw [List.length_replicate]; omega), List.getElem?_replicate_of_lt (by omega)]
      · have hindex : j - m.length - 1 - (paddedLen m.length - m.length - 9) = j - (paddedLen m.length - 8) := by omega
        rw [List.getElem?_append_right (by rw [List.length_replicate]; omega), List.length_replicate, hindex,
          List.getElem?_map, List.getElem?_range (by omega), Option.map_some]

/-- The lane and the adapter give the big-endian word for both byte orders (41_padding_endianness.md R117). -/
theorem adapt_packHost (b0 b1 b2 b3 : Byte) (le : Bool) : adapt (packHost b0 b1 b2 b3 le) le = be32 b0 b1 b2 b3 := by
  cases le with
  | false => rfl
  | true =>
    -- Bit by bit: the swap reverses the four bytes the little-endian lane had reversed.
    apply BitVec.eq_of_getLsbD_eq
    intro i hi
    simp only [adapt, packHost, bswap32, be32, if_true]
    simp only [BitVec.getLsbD_cast, BitVec.getLsbD_append, BitVec.getLsbD_extractLsb']
    interval_cases i <;> simp

/-- Where the port delivers the message `m`, the word of a LOADW is the block's word (41_padding_endianness.md R118, R119). -/
theorem loadWord_eq_blockWord {s : State} {m : List Byte} (hm : ReadsMessage s m) (hb : s.blk.toNat < nblk m.length)
    (ht : s.t.toNat ≤ 15) : loadWord s = some (blockWord m s.blk.toNat s.t.toNat) := by
  have hbyte : ∀ k < 4, statePadByte s (wordIndex s + k) = some (paddedByte m (wordIndex s + k)) := by
    intro k hk
    rw [statePadByte, hm.1]
    apply padByte_eq_paddedByte hm.2
    unfold wordIndex paddedLen
    omega
  have hbyte0 := hbyte 0 (by decide)
  rw [Nat.add_zero] at hbyte0
  simp only [loadWord, hbyte0, hbyte 1 (by decide), hbyte 2 (by decide), hbyte 3 (by decide), adapt_packHost]
  rfl

end Sys2Proof.Machine
end

section
/-! The schedule's entries and the rolling window over them (42_schedule.md R130 to R134). -/

namespace Sys2Proof.Machine

variable (M : Vector Word 16)

theorem scheduleTo_length (k : Nat) : (scheduleTo M k).length = 16 + k := by
  induction k with
  | zero => simp [scheduleTo]
  | succ k ih => simp [scheduleTo, ih, Nat.add_assoc]

/-- A longer schedule begins with the shorter one. -/
theorem scheduleTo_getD_of_le {k n i : Nat} (hi : i < 16 + k) (hk : k ≤ n) :
    (scheduleTo M n).getD i 0 = (scheduleTo M k).getD i 0 := by
  induction n, hk using Nat.le_induction with
  | base => rfl
  | succ n hn ih =>
    rw [scheduleTo, List.getD_append _ _ _ _ (by rw [scheduleTo_length]; omega), ih]

theorem schedEntry_of_lt {i : Nat} (h : i < 16) : schedEntry M i = M[i] := by
  rw [schedEntry, schedule, scheduleTo_getD_of_le M (k := 0) (by omega) (by decide)]
  simp [scheduleTo, h]

/-- The entries after the block's words (42_schedule.md R130). -/
theorem schedEntry_recurrence {i : Nat} (h16 : 16 ≤ i) (h80 : i < 80) :
    schedEntry M i = rotl32 (schedEntry M (i - 3) ^^^ schedEntry M (i - 8) ^^^ schedEntry M (i - 14) ^^^
      schedEntry M (i - 16)) 1 := by
  obtain ⟨k, rfl⟩ : ∃ k, i = 16 + k := ⟨i - 16, by omega⟩
  have hprev : ∀ j < 16 + k, schedEntry M j = (scheduleTo M k).getD j 0 := fun j hj =>
    scheduleTo_getD_of_le M hj (by omega)
  have hnew : schedEntry M (16 + k) = nextEntry (scheduleTo M k) := by
    rw [schedEntry, schedule, scheduleTo_getD_of_le M (k := k + 1) (by omega) (by omega), scheduleTo,
      List.getD_append_right _ _ _ _ (by rw [scheduleTo_length]), scheduleTo_length, Nat.sub_self, List.getD_cons_zero]
  rw [hnew, hprev _ (by omega), hprev _ (by omega), hprev _ (by omega), hprev _ (by omega)]
  simp only [nextEntry, scheduleTo_length]

/-- The words of the block are the first entries of its schedule. -/
theorem schedEntry_block (m : List Byte) (n : Nat) {i : Nat} (h : i < 16) :
    schedEntry (block m n) i = blockWord m n i := by
  rw [schedEntry_of_lt _ h]
  simp [block]

variable {M} {W : Vector Word 16} {t : Nat}

/-- `SchedStep(t)` returns entry `t` (42_schedule.md R133). -/
theorem RollingWindow.schedWord_eq (h : RollingWindow W (schedEntry M) t) (ht : t ≤ 79) :
    schedWord W t = schedEntry M t := by
  unfold schedWord
  split
  · exact h t (by omega) (by omega)
  · have holdest : slotRead W t = slotRead W (t - 16) := by
      rw [← slotRead_mod W t, ← slotRead_mod W (t - 16), Nat.mod_eq_sub_mod (by omega)]
    rw [schedEntry_recurrence M (by omega) (by omega), holdest, h _ (by omega) (by omega), h _ (by omega) (by omega),
      h _ (by omega) (by omega), h _ (by omega) (by omega)]

/-- `SchedStep(t)` moves the window one entry on (42_schedule.md R134). -/
theorem RollingWindow.schedBuffer_step (h : RollingWindow W (schedEntry M) t) (ht : t ≤ 79) :
    RollingWindow (schedBuffer W t) (schedEntry M) (t + 1) := by
  intro i hlo hhi
  by_cases h16 : t ≤ 15
  · rw [schedBuffer_of_le W h16]
    exact h i (by omega) (by omega)
  · rw [schedBuffer_of_gt W (by omega)]
    by_cases hi : i = t
    · subst i
      rw [slotRead_slotWrite_same, h.schedWord_eq ht]
    · rw [slotRead_slotWrite_other W _ (by omega)]
      exact h i (by omega) (by omega)

end Sys2Proof.Machine
end

section
/-! The sequencer's turn within a block: it keeps the datapath where the position says, and leaves the rest of the run
unchanged (44_driver_host.md R171). -/

namespace Sys2Proof.Machine

variable {s s' : State} {m : List Byte}

theorem blockProgress_of_load (h : s.phase = .load) : blockProgress m s ↔
    s.t.toNat ≤ 15 ∧ ∀ i < s.t.toNat, slotRead s.W i = blockWord m s.blk.toNat i := by
  simp only [blockProgress, h]

theorem blockProgress_of_seed (h : s.phase = .seed) : blockProgress m s ↔
    s.t.toNat = 15 ∧ ∀ i < 16, slotRead s.W i = blockWord m s.blk.toNat i := by
  simp only [blockProgress, h]

theorem blockProgress_of_round (h : s.phase = .round) : blockProgress m s ↔
    s.t.toNat ≤ 79 ∧ RollingWindow s.W (schedEntry (block m s.blk.toNat)) s.t.toNat ∧
      s.wv = rounds (schedEntry (block m s.blk.toNat)) s.t.toNat (seedWork s.H) := by
  simp only [blockProgress, h]

theorem blockProgress_of_fold (h : s.phase = .fold) : blockProgress m s ↔
    s.t.toNat = 79 ∧ s.wv = rounds (schedEntry (block m s.blk.toNat)) 80 (seedWork s.H) := by
  simp only [blockProgress, h]

/-- Progress within a block is about the position and the datapath only. -/
theorem blockProgress_congr (hp : SamePosition s s') (hH : s'.H = s.H) (hw : s'.wv = s.wv) (hW : s'.W = s.W) :
    blockProgress m s' ↔ blockProgress m s := by
  obtain ⟨hphase, hblk, ht⟩ := hp
  unfold blockProgress
  rw [hphase, hblk, ht, hH, hw, hW]

/-- LOADW of the block's word fills the next slot (41_padding_endianness.md R118). -/
theorem blockProgress_loadInto (hph : s.phase = .load) (hp : blockProgress m s) :
    blockProgress m (loadInto (blockWord m s.blk.toNat s.t.toNat) s) := by
  obtain ⟨ht, hslots⟩ := (blockProgress_of_load hph).1 hp
  have hfilled : ∀ i ≤ s.t.toNat, slotRead (slotWrite s.W s.t.toNat (blockWord m s.blk.toNat s.t.toNat)) i =
      blockWord m s.blk.toNat i := by
    intro i hi
    rcases Nat.eq_or_lt_of_le hi with rfl | hlt
    · exact slotRead_slotWrite_same ..
    · rw [slotRead_slotWrite_other _ _ (by omega), hslots i hlt]
  by_cases h15 : s.t.toNat = 15
  · refine (blockProgress_of_seed (by simp [h15])).2 ⟨by simp [h15], fun i hi => ?_⟩
    exact hfilled i (by omega)
  · have hnext : (s.t + 1).toNat = s.t.toNat + 1 := t_succ (by omega)
    refine (blockProgress_of_load (by simp [h15, hph])).2 ?_
    simp only [loadInto_t, loadInto_W, loadInto_blk, if_neg h15, hnext]
    exact ⟨by omega, fun i hi => hfilled i (by omega)⟩

/-- SEED starts the rounds over the block's words (43_compression.md R140). -/
theorem blockProgress_seed (hph : s.phase = .seed) (hp : blockProgress m s) :
    blockProgress m { s with wv := seedWork s.H, t := 0, phase := .round } := by
  obtain ⟨-, hslots⟩ := (blockProgress_of_seed hph).1 hp
  refine (blockProgress_of_round rfl).2 ⟨Nat.zero_le _, fun i _ hi => ?_, rfl⟩
  have hi' : i < 16 := hi
  rw [schedEntry_block m _ hi', hslots i hi']

/-- A round is the next one of the block function (43_compression.md R141, R147). -/
theorem blockProgress_roundInto {q : Fin 4} (hph : s.phase = .round) (hq : quarter s.t.toNat = q.val)
    (hp : blockProgress m s) : blockProgress m (roundInto q s) := by
  obtain ⟨ht, hwin, hwv⟩ := (blockProgress_of_round hph).1 hp
  have hwv' : roundWork q s.wv (schedWord s.W s.t.toNat) =
      rounds (schedEntry (block m s.blk.toNat)) (s.t.toNat + 1) (seedWork s.H) := by
    rw [rounds, roundQuarter_of hq, hwin.schedWord_eq ht, hwv]
  by_cases h79 : s.t.toNat = 79
  · rw [h79] at hwv'
    exact (blockProgress_of_fold (by simp [h79])).2 ⟨by simp [h79], by simpa [h79] using hwv'⟩
  · have hnext : (s.t + 1).toNat = s.t.toNat + 1 := t_succ (by omega)
    refine (blockProgress_of_round (by simp [h79, hph])).2 ?_
    simp only [roundInto_t, roundInto_W, roundInto_wv, roundInto_H, roundInto_blk, if_neg h79, hnext]
    exact ⟨by omega, hwin.schedBuffer_step ht, hwv'⟩

/-- FOLD adds the block function's result (43_compression.md R146, R147). -/
theorem foldH_of_progress (hph : s.phase = .fold) (hp : blockProgress m s) :
    foldH s.H s.wv = compress s.H (block m s.blk.toNat) := by
  obtain ⟨-, hwv⟩ := (blockProgress_of_fold hph).1 hp
  rw [compress, ← hwv]

/-- What a turn of the sequencer other than a FOLD leaves unchanged. -/
structure WithinBlock (s s' : State) : Prop where
  H      : s'.H = s.H
  LEN    : s'.LEN = s.LEN
  blk    : s'.blk = s.blk
  MSG    : s'.MSG = s.MSG
  stale  : s'.stale = s.stale
  flags  : SameFlags s s'
  around : SameAround s s'

theorem withinBlock_loadInto (x : Word) (s : State) : WithinBlock s (loadInto x s) :=
  ⟨rfl, rfl, rfl, rfl, rfl, ⟨rfl, rfl, rfl⟩, rfl, rfl, rfl, rfl⟩

theorem withinBlock_seed (s : State) :
    WithinBlock s { s with wv := seedWork s.H, t := 0, phase := .round } :=
  ⟨rfl, rfl, rfl, rfl, rfl, ⟨rfl, rfl, rfl⟩, rfl, rfl, rfl, rfl⟩

theorem withinBlock_roundInto (q : Fin 4) (s : State) : WithinBlock s (roundInto q s) :=
  ⟨rfl, rfl, rfl, rfl, rfl, ⟨rfl, rfl, rfl⟩, rfl, rfl, rfl, rfl⟩

/-- Every turn of the sequencer before the FOLD goes one position on in the block (44_driver_host.md R171). -/
theorem sequencerTurn_within_block (hm : ReadsMessage s m) (hl : m.length < lengthBound)
    (hb : s.blk.toNat < nblk m.length) (hp : blockProgress m s) (hf : s.phase ≠ .fold) :
    ∃ s', sequencerTurn s = .next s' ∧ blockProgress m s' ∧ WithinBlock s s' := by
  cases hph : s.phase with
  | load =>
    have ht := ((blockProgress_of_load hph).1 hp).1
    have hd : padDefined s = true := padDefined_of_block (by rwa [hm.1]) (by rwa [hm.1]) ht
    refine ⟨_, ?_, blockProgress_loadInto hph hp, withinBlock_loadInto _ s⟩
    rw [sequencerTurn_load hph, execLoadw_loads hph ht hd (loadWord_eq_blockWord hm hb ht)]
  | seed =>
    refine ⟨_, ?_, blockProgress_seed hph hp, withinBlock_seed s⟩
    rw [sequencerTurn_seed hph, execSeed, if_pos hph]
  | round =>
    have ht := ((blockProgress_of_round hph).1 hp).1
    have hq : quarter s.t.toNat = (⟨_, quarter_lt ht⟩ : Fin 4).val := rfl
    exact ⟨_, sequencerTurn_round hph hq, blockProgress_roundInto hph hq hp, withinBlock_roundInto _ s⟩
  | fold => exact absurd hph hf
  | idle | reserved5 | reserved6 | reserved7 => simp [blockProgress, hph] at hp

end Sys2Proof.Machine
end

section
/-! A run on its way: what each event of either agent does to it (00_scope.md R10; 44_driver_host.md R162, R164, R171,
R174). -/

namespace Sys2Proof.Machine

variable {s s' : State} {m : List Byte}

/-- A state of the same block of the run. -/
theorem OnRun.of_progress (h : OnRun m s) (hm : ReadsMessage s' m) (hf : SameFlags s s') (hb : s'.blk = s.blk)
    (hH : s'.H = s.H) (hp : blockProgress m s') : OnRun m s' := by
  obtain ⟨hB, hD, hE⟩ := hf
  exact {
    message := hm
    legal := h.legal
    flags := by rw [hB, hD, hE]; exact h.flags
    block := by rw [hb]; exact h.block
    blocks := by rw [hH, hb]; exact h.blocks
    progress := hp }

/-- A run is about the core and the message only. -/
theorem OnRun.of_sameCore (h : OnRun m s) (hm : ReadsMessage s' m) (hf : SameFlags s s') (hp : SamePosition s s')
    (hH : s'.H = s.H) (hw : s'.wv = s.wv) (hW : s'.W = s.W) : OnRun m s' :=
  h.of_progress hm hf hp.2.1 hH ((blockProgress_congr hp hH hw hW).2 h.progress)

theorem OnRun.busy_eq (h : OnRun m s) : busy s = true := busy_of_flag h.flags.1

theorem OnRun.afterFetch_keeps (h : OnRun m s) : OnRun m (afterFetch s) :=
  h.of_sameCore h.message ⟨rfl, rfl, rfl⟩ ⟨rfl, rfl, rfl⟩ rfl rfl rfl

/-- No host transaction disturbs a run: while `BUSY = 1` a START and a length write are ignored, and a read returns
(44_driver_host.md R162, R164, R166). -/
theorem OnRun.runRecord_keeps (h : OnRun m s) (r : Record) : ∃ s', runRecord r s = .next s' ∧ OnRun m s' := by
  obtain ⟨s', hs⟩ := runRecord_answers r s
  refine ⟨s', hs, ?_⟩
  rcases runRecord_next hs with ⟨-, hstart⟩ | ⟨-, rfl | ⟨v, rfl⟩ | ⟨v, rfl⟩ | ⟨x, rfl⟩⟩
  · rcases execStart_next hstart with ⟨-, rfl⟩ | ⟨hidle, -⟩ | ⟨hidle, -⟩
    · exact h
    · simp [h.busy_eq] at hidle
    · simp [h.busy_eq] at hidle
  · exact h
  · rwa [writeLenLow_of_busy v h.busy_eq]
  · rwa [writeLenHigh_of_busy v h.busy_eq]
  · exact h.of_sameCore h.message ⟨rfl, rfl, rfl⟩ ⟨rfl, rfl, rfl⟩ rfl rfl rfl

/-- A byte placed outside the message does not change what the core reads of it (20_memory.md R60). -/
theorem readsMessage_placeByte {a : Nat} (v : Byte) (hm : ReadsMessage s m) (ha : m.length ≤ a) :
    ReadsMessage (placeByte a v s) m := by
  have hrace : racedByte s a v = none := by
    rw [racedByte, if_neg]
    rw [hm.1]
    omega
  have hplace : placeByte a v s = { s with MSG := s.MSG.write a v } := by rw [placeByte, hrace]
  rw [hplace]
  refine ⟨hm.1, fun j hj => ?_⟩
  rw [← hm.2 j hj]
  unfold msgRead
  rw [Memory.read_write_other _ v (by omega)]

theorem OnRun.placeByte_keeps {a : Nat} (h : OnRun m s) (v : Byte) (ha : m.length ≤ a) : OnRun m (placeByte a v s) :=
  h.of_sameCore (readsMessage_placeByte v h.message ha) (by simp [SameFlags]) (by simp [SamePosition]) (by simp)
    (by simp) (by simp)

/-- FOLD ends a block: the run goes on with the next one, or ends with the digest (43_compression.md R146;
44_driver_host.md R169, R173). -/
theorem OnRun.foldInto_keeps_or_ends (h : OnRun m s) (hph : s.phase = .fold) :
    OnRun m (foldInto s) ∨ HoldsDigest m (foldInto s) := by
  obtain ⟨hB, hD, hE⟩ := h.flags
  have hH : foldH s.H s.wv = hashBlocks m (s.blk.toNat + 1) := by
    rw [foldH_of_progress hph h.progress, hashBlocks, ← h.blocks]
  cases hlast : lastBlock s with
  | true =>
    have hend : s.blk.toNat + 1 = nblk m.length := by rw [← h.message.1]; exact lastBlock_iff.1 hlast
    rw [foldInto_of_last s hlast]
    exact .inr { flags := ⟨rfl, rfl, hE⟩, idle := rfl, digest := by rw [sha1State, ← hend]; exact hH }
  | false =>
    have hmore : s.blk.toNat + 1 ≠ nblk m.length := by
      rw [← h.message.1, Ne, ← lastBlock_iff, hlast]
      exact Bool.false_ne_true
    have hblock := h.block
    have hnext : (s.blk + 1).toNat = s.blk.toNat + 1 := blk_succ h.legal hblock
    rw [foldInto_of_more s hlast]
    exact .inl {
      message := readsMessage_of_same h.message rfl rfl rfl
      legal := h.legal
      flags := h.flags
      block := by simp only [hnext]; omega
      blocks := by simp only [hnext]; exact hH
      progress := (blockProgress_of_load rfl).2 ⟨Nat.zero_le _, fun i hi => absurd hi (Nat.not_lt_zero i)⟩ }

/-- Every turn of the sequencer in a run keeps it on its way or ends it with the digest (44_driver_host.md R171). -/
theorem OnRun.sequencerTurn_keeps_or_ends (h : OnRun m s) :
    ∃ s', sequencerTurn s = .next s' ∧ (OnRun m s' ∨ HoldsDigest m s') := by
  by_cases hph : s.phase = .fold
  · refine ⟨_, ?_, h.foldInto_keeps_or_ends hph⟩
    rw [sequencerTurn_fold hph, execFold, if_pos hph]
  · obtain ⟨s', hs, hp, hw⟩ := sequencerTurn_within_block h.message h.legal h.block h.progress hph
    have hm := readsMessage_of_same h.message hw.LEN hw.MSG hw.stale
    exact ⟨s', hs, .inl (h.of_progress hm hw.flags hw.blk hw.H hp)⟩

/-- Settles O54, event by event: a host transaction and a byte placed outside the message leave the run as it is, and the
sequencer's turn goes one position on. -/
theorem everyStepKeepsTheRunOnItsWay : Obligations.EveryStepKeepsTheRunOnItsWay := by
  intro s m h hd
  have h' := h.afterFetch_keeps
  unfold step
  cases he : nextEvent s with
  | txn r =>
    obtain ⟨s', hs, hrun⟩ := h'.runRecord_keeps r
    exact ⟨s', hs, .inl hrun⟩
  | reset =>
    rw [he] at hd
    cases hd
  | place a v =>
    rw [he] at hd
    have ha : m.length ≤ a.toNat := by simpa [disturbs] using hd
    exact ⟨_, rfl, .inl (h'.placeByte_keeps v ha)⟩
  | core => exact h'.sequencerTurn_keeps_or_ends

end Sys2Proof.Machine
end

section
/-! What one step of either agent runs, and the configuration that no step writes (00_scope.md R7, R10). -/

namespace Sys2Proof.Machine

variable {s s' : State}

theorem sequencerTurn_hostLE (h : sequencerTurn s = .next s') : s'.hostLE = s.hostLE := by
  rcases sequencerTurn_next h with rfl | ⟨-, -, -, x, -, rfl⟩ | ⟨-, rfl⟩ | ⟨-, q, -, rfl⟩ | ⟨-, rfl⟩
  · rfl
  · exact loadInto_hostLE s x
  · rfl
  · exact roundInto_hostLE s q
  · exact foldInto_hostLE s

theorem execStart_hostLE (h : execStart s = .next s') : s'.hostLE = s.hostLE := by
  rcases execStart_next h with ⟨-, rfl⟩ | ⟨-, -, rfl⟩ | ⟨-, -, rfl⟩
  · rfl
  · exact raiseInputTooLarge_hostLE s
  · exact beginRun_hostLE s

/-- Settles O16, by what a step of each event can do. -/
theorem configurationNeverChanges : Obligations.ConfigurationNeverChanges := by
  intro s s' h
  rcases step_cases h with ⟨r, -, -, hstart⟩ | ⟨r, -, -, rfl | ⟨v, rfl⟩ | ⟨v, rfl⟩ | ⟨x, n, rfl⟩⟩ |
    ⟨-, rfl⟩ | ⟨a, v, -, rfl⟩ | ⟨-, hturn⟩
  case inl => simpa using execStart_hostLE hstart
  case inr.inr.inr.inr => simpa using sequencerTurn_hostLE hturn
  all_goals simp

/-- Settles O7: the record at the head of the agenda is run on the state without it. -/
theorem stepRunsTheDecodedTransaction : Obligations.StepRunsTheDecodedTransaction := by
  intro s r rest h
  rw [step_of_cons h]
  refine ⟨fun i hi => ?_, fun x hx => ?_⟩
  · rw [runEvent, runRecord, hi]
  · rw [runEvent, runRecord, hx]

/-- Settles O8: the selector does not depend on the agenda, so the turn runs the operation it names in `s`. -/
theorem stepRunsTheSelectedMicroOperation : Obligations.StepRunsTheSelectedMicroOperation := by
  intro s rest h
  have husel : usel { s with agenda := rest } = usel s := rfl
  rw [step_of_turn h, sequencerTurn, husel]
  refine ⟨fun u i hu hi => ?_, fun u x hu hx => ?_, fun hu => ?_⟩
  · simp only [hu, hi]
  · simp only [hu, hx]
  · simp only [hu]

end Sys2Proof.Machine
end

section
/-! What a step of either agent does to the core: the five effects, and what the sequencer's turn writes (10_state.md R20 to
R26; 44_driver_host.md R161 to R171). -/

namespace Sys2Proof.Machine

variable {s s' : State}

/-- What a step leaves unchanged that is no reset, no START with an effect and no turn of the sequencer: the whole core but
the length, which the host may write while `BUSY = 0` (10_state.md R24). -/
structure KeepsCore (s s' : State) : Prop where
  H        : s'.H = s.H
  wv       : s'.wv = s.wv
  W        : s'.W = s.W
  LEN      : s.BUSY = true → s'.LEN = s.LEN
  position : SamePosition s s'
  flags    : SameFlags s s'
  memory   : s.MSG.wf = true → s'.MSG.wf = true

theorem KeepsCore.refl (s : State) : KeepsCore s s :=
  ⟨rfl, rfl, rfl, fun _ => rfl, ⟨rfl, rfl, rfl⟩, ⟨rfl, rfl, rfl⟩, id⟩

theorem keepsCore_reply (s : State) (x : Option Word) (n : Nat) : KeepsCore s { s with reply := x, draws := n } :=
  ⟨rfl, rfl, rfl, fun _ => rfl, ⟨rfl, rfl, rfl⟩, ⟨rfl, rfl, rfl⟩, id⟩

theorem keepsCore_writeLenLow (v : Word) (s : State) : KeepsCore s (writeLenLow v s) := by
  constructor <;> simp +contextual [SamePosition, SameFlags, busy_of_flag]

theorem keepsCore_writeLenHigh (v : Word) (s : State) : KeepsCore s (writeLenHigh v s) := by
  constructor <;> simp +contextual [SamePosition, SameFlags, busy_of_flag]

theorem keepsCore_placeByte (a : BitVec 64) (v : Byte) (s : State) : KeepsCore s (placeByte a.toNat v s) := by
  refine ⟨?_, ?_, ?_, ?_, ?_, ?_, placeByte_wf v⟩ <;> simp [SamePosition, SameFlags]

/-- What a step can do to the core, one constructor per effect. -/
inductive StepEffect (s : State) : State → Prop where
  | reset (he : nextEvent s = .reset) : StepEffect s (resetEvent (afterFetch s))
  | refusedStart (he : startNext s) (hb : busy s = false) (hl : 2 ^ 61 ≤ s.LEN.toNat) :
      StepEffect s (raiseInputTooLarge (afterFetch s))
  | acceptedStart (he : startNext s) (hb : busy s = false) (hl : s.LEN.toNat < 2 ^ 61) :
      StepEffect s (beginRun (afterFetch s))
  | turn {s' : State} (he : nextEvent s = .core) (h : sequencerTurn (afterFetch s) = .next s') : StepEffect s s'
  | kept {s' : State} (h : KeepsCore (afterFetch s) s') : StepEffect s s'

/-- Every step has one of the five effects. -/
theorem stepEffect_of_step (h : step s = .next s') : StepEffect s s' := by
  rcases step_cases h with ⟨r, he, hr, hstart⟩ | ⟨r, -, -, rfl | ⟨v, rfl⟩ | ⟨v, rfl⟩ | ⟨x, n, rfl⟩⟩ |
    ⟨he, rfl⟩ | ⟨a, v, -, rfl⟩ | ⟨he, hturn⟩
  · rcases execStart_next hstart with ⟨-, rfl⟩ | ⟨hb, hl, rfl⟩ | ⟨hb, hl, rfl⟩
    · exact .kept (.refl _)
    · exact .refusedStart ⟨r, he, hr⟩ hb hl
    · exact .acceptedStart ⟨r, he, hr⟩ hb hl
  · exact .kept (.refl _)
  · exact .kept (keepsCore_writeLenLow v _)
  · exact .kept (keepsCore_writeLenHigh v _)
  · exact .kept (keepsCore_reply _ _ n)
  · exact .reset he
  · exact .kept (keepsCore_placeByte a v _)
  · exact .turn he hturn

end Sys2Proof.Machine
end

section
/-! The invariant of reachable states: at reset, and across every step (10_state.md R26, R27, R29, R38). -/

namespace Sys2Proof.Machine

variable {s s' : State}

/-- The invariant in `IDLE`: nothing is asked of the position, and of the length and the block index only in a run. -/
theorem Inv.of_idle (hp : s.phase = .idle) (hB : s.BUSY = false) (hDE : (s.DONE && s.ERR) = false)
    (hM : s.MSG.wf = true) : Inv s where
  busy_iff := by simp [hB, hp]
  flags := ⟨by simp [hB], by simp [hB], hDE⟩
  position := by simp [positionOk, hp]
  length := by simp [hB]
  block := by simp [hB]
  memory := hM

/-- The invariant in a run: `BUSY` is the one flag. -/
theorem Inv.of_running (hp : s.phase ≠ .idle) (hB : s.BUSY = true) (hD : s.DONE = false) (hE : s.ERR = false)
    (ht : positionOk s = true) (hL : s.LEN.toNat < lengthBound) (hb : s.blk.toNat < nblk s.LEN.toNat)
    (hM : s.MSG.wf = true) : Inv s where
  busy_iff := by simp [hB, hp]
  flags := by simp [hD, hE]
  position := ht
  length _ := hL
  block _ := hb
  memory := hM

theorem Inv.phase_eq_idle (h : Inv s) (hb : busy s = false) : s.phase = .idle := by
  rw [h.busy_eq] at hb
  by_contra hp
  simp [h.busy_iff.2 hp] at hb

/-- In a run `BUSY` is the one flag. -/
theorem Inv.flags_of_running (h : Inv s) (hp : s.phase ≠ .idle) :
    s.BUSY = true ∧ s.DONE = false ∧ s.ERR = false := by
  have hB := h.busy_iff.2 hp
  obtain ⟨hBD, hBE, -⟩ := h.flags
  rw [hB, Bool.true_and] at hBD hBE
  exact ⟨hB, hBD, hBE⟩

theorem Inv.afterFetch_keeps (h : Inv s) : Inv (afterFetch s) :=
  ⟨h.busy_iff, h.flags, h.position, h.length, h.block, h.memory⟩

/-- A step that keeps the core keeps the invariant: the length changes only where `BUSY = 0`. -/
theorem Inv.of_keepsCore (h : Inv s) (hk : KeepsCore s s') : Inv s' := by
  obtain ⟨hp, hb, ht⟩ := hk.position
  obtain ⟨hB, hD, hE⟩ := hk.flags
  exact {
    busy_iff := by rw [hB, hp]; exact h.busy_iff
    flags := by rw [hB, hD, hE]; exact h.flags
    position := by unfold positionOk; rw [hp, ht]; exact h.position
    length := fun hbusy => by rw [hB] at hbusy; rw [hk.LEN hbusy]; exact h.length hbusy
    block := fun hbusy => by rw [hB] at hbusy; rw [hb, hk.LEN hbusy]; exact h.block hbusy
    memory := hk.memory h.memory }

theorem inv_beginRun (hL : s.LEN.toNat < lengthBound) (hM : s.MSG.wf = true) : Inv (beginRun s) :=
  .of_running (by simp) rfl rfl rfl (by simp [positionOk]) hL (Nat.succ_pos _) hM

theorem inv_resetEvent (hM : s.MSG.wf = true) : Inv (resetEvent s) := .of_idle rfl rfl rfl hM

theorem Inv.raiseInputTooLarge_keeps (h : Inv s) (hb : busy s = false) : Inv (raiseInputTooLarge s) :=
  .of_idle (h.phase_eq_idle hb) (busy_eq_false_iff.1 hb).1 rfl h.memory

/-- A micro-operation within a block keeps the invariant where it leads to a position in range. -/
theorem Inv.of_withinBlock (h : Inv s) (hw : WithinBlock s s') (hp : s.phase ≠ .idle) (hp' : s'.phase ≠ .idle)
    (ht : positionOk s' = true) : Inv s' := by
  obtain ⟨hB, hD, hE⟩ := h.flags_of_running hp
  obtain ⟨hB', hD', hE'⟩ := hw.flags
  exact .of_running hp' (hB'.trans hB) (hD'.trans hD) (hE'.trans hE) ht (by rw [hw.LEN]; exact h.length hB)
    (by rw [hw.blk, hw.LEN]; exact h.block hB) (by rw [hw.MSG]; exact h.memory)

/-- LOADW goes to the next slot, or to SEED after slot 15 (41_padding_endianness.md R118). -/
theorem positionOk_loadInto (x : Word) (hp : s.phase = .load) (ht : s.t.toNat ≤ 15) :
    positionOk (loadInto x s) = true := by
  by_cases h15 : s.t.toNat = 15
  · simp [positionOk, h15]
  · have hnext : (s.t + 1).toNat = s.t.toNat + 1 := t_succ (by omega)
    simp only [positionOk, loadInto_phase, loadInto_t, if_neg h15, hp, hnext, decide_eq_true_eq]
    omega

/-- A round goes to the next round, or to FOLD after round 79 (43_compression.md R141). -/
theorem positionOk_roundInto {q : Fin 4} (hp : s.phase = .round) (hq : quarter s.t.toNat = q.val) :
    positionOk (roundInto q s) = true := by
  have ht : s.t.toNat ≤ 79 := by
    have := q.isLt
    unfold quarter at hq
    omega
  by_cases h79 : s.t.toNat = 79
  · simp [positionOk, h79]
  · have hnext : (s.t + 1).toNat = s.t.toNat + 1 := t_succ (by omega)
    simp only [positionOk, roundInto_phase, roundInto_t, if_neg h79, hp, hnext, decide_eq_true_eq]
    omega

/-- FOLD ends the run after the last block; after any other there is a next block (43_compression.md R146). -/
theorem Inv.foldInto_keeps (h : Inv s) (hp : s.phase = .fold) : Inv (foldInto s) := by
  obtain ⟨hB, hD, hE⟩ := h.flags_of_running (by simp [hp])
  have hL := h.length hB
  have hb := h.block hB
  cases hlast : lastBlock s with
  | true =>
    rw [foldInto_of_last s hlast]
    exact .of_idle rfl rfl (by simp [hE]) h.memory
  | false =>
    have hmore : s.blk.toNat + 1 ≠ nblk s.LEN.toNat := by simp [← lastBlock_iff, hlast]
    rw [foldInto_of_more s hlast]
    have hnext : (s.blk + 1).toNat < nblk s.LEN.toNat := by
      rw [blk_succ hL hb]
      omega
    exact .of_running (by simp) hB hD hE rfl hL hnext h.memory

/-- Every turn of the sequencer keeps the invariant (44_driver_host.md R171). -/
theorem Inv.sequencerTurn_keeps (h : Inv s) (ht : sequencerTurn s = .next s') : Inv s' := by
  rcases sequencerTurn_next ht with rfl | ⟨hp, ht15, -, x, -, rfl⟩ | ⟨hp, rfl⟩ | ⟨hp, q, hq, rfl⟩ | ⟨hp, rfl⟩
  · exact h
  · refine h.of_withinBlock (withinBlock_loadInto x s) (by simp [hp]) ?_ (positionOk_loadInto x hp ht15)
    rw [loadInto_phase]
    split <;> simp [hp]
  · exact h.of_withinBlock (withinBlock_seed s) (by simp [hp]) (by simp) rfl
  · refine h.of_withinBlock (withinBlock_roundInto q s) (by simp [hp]) ?_ (positionOk_roundInto hp hq)
    rw [roundInto_phase]
    split <;> simp [hp]
  · exact h.foldInto_keeps hp

/-- Settles O12, effect by effect: host operations leave the core or lead to `IDLE` or to the first position of a run, and
the sequencer's turn goes one position on. -/
theorem everyStepKeepsTheInvariant : Obligations.EveryStepKeepsTheInvariant := by
  intro s s' hinv h
  have hinv' := hinv.afterFetch_keeps
  cases stepEffect_of_step h with
  | reset => exact inv_resetEvent hinv.memory
  | refusedStart _ hb => exact hinv'.raiseInputTooLarge_keeps hb
  | acceptedStart _ _ hl => exact inv_beginRun hl hinv.memory
  | turn _ hturn => exact hinv'.sequencerTurn_keeps hturn
  | kept hk => exact hinv'.of_keepsCore hk

/-- Settles O11: reset is in `IDLE` with every flag 0 and no byte placed. -/
theorem invariantHoldsAtReset : Obligations.InvariantHoldsAtReset :=
  Inv.of_idle rfl rfl rfl reset_memory_wf

/-- `STATUS` of a state with at most one flag set (10_state.md R29, R32). -/
theorem statusWord_of_oneFlag (hb : busy s = s.BUSY)
    (hf : (s.BUSY && s.DONE) = false ∧ (s.BUSY && s.ERR) = false ∧ (s.DONE && s.ERR) = false) :
    statusWord s = 0 ∨ statusWord s = 1 ∨ statusWord s = 2 ∨ statusWord s = 4 := by
  unfold statusWord
  rw [hb]
  revert hf
  generalize s.BUSY = B
  generalize s.DONE = D
  generalize s.ERR = E
  revert B D E
  decide

/-- Settles O28: a read of `STATUS` returns the three flags, of which at most one is set. -/
theorem statusReadsZeroOneTwoOrFour : Obligations.StatusReadsZeroOneTwoOrFour := by
  intro s h
  refine ⟨_, rfl, ?_⟩
  simpa [regRead] using statusWord_of_oneFlag h.busy_eq h.flags

/-- Settles O21: the reset event writes the control state, and the turn of the sequencer in `IDLE` changes nothing. -/
theorem resetLeavesTheControlState : Obligations.ResetLeavesTheControlState := by
  refine ⟨⟨rfl, rfl, rfl, rfl, rfl⟩, fun s rest h => ⟨resetEvent { s with agenda := rest }, step_of_cons h, ?_⟩⟩
  exact ⟨rfl, rfl, rfl, rfl, rfl, fun a => rfl, rfl, rfl, rfl, sequencerTurn_idle rfl⟩

end Sys2Proof.Machine
end

section
/-! Who writes what: the length, the datapath, the flags and the way out of `IDLE` (10_state.md R20 to R26). -/

namespace Sys2Proof.Machine

variable {s s' : State}

theorem sequencerTurn_LEN (h : sequencerTurn s = .next s') : s'.LEN = s.LEN := by
  rcases sequencerTurn_next h with rfl | ⟨-, -, -, x, -, rfl⟩ | ⟨-, rfl⟩ | ⟨-, q, -, rfl⟩ | ⟨-, rfl⟩
  case inr.inr.inr.inr => exact foldInto_LEN s
  all_goals rfl

/-- The sequencer writes `H` by FOLD only (43_compression.md R146). -/
theorem sequencerTurn_H (h : sequencerTurn s = .next s') : s'.H = s.H ∨ s.phase = .fold := by
  rcases sequencerTurn_next h with rfl | ⟨-, -, -, x, -, rfl⟩ | ⟨-, rfl⟩ | ⟨-, q, -, rfl⟩ | ⟨hp, -⟩
  case inr.inr.inr.inr => exact .inr hp
  all_goals exact .inl rfl

/-- The sequencer writes `a..e` by SEED and the rounds only (43_compression.md R140, R141). -/
theorem sequencerTurn_wv (h : sequencerTurn s = .next s') : s'.wv = s.wv ∨ s.phase = .seed ∨ s.phase = .round := by
  rcases sequencerTurn_next h with rfl | ⟨-, -, -, x, -, rfl⟩ | ⟨hp, -⟩ | ⟨hp, -⟩ | ⟨-, rfl⟩
  · exact .inl rfl
  · exact .inl rfl
  · exact .inr (.inl hp)
  · exact .inr (.inr hp)
  · exact .inl (foldInto_wv s)

/-- The sequencer writes `W` by LOADW and the rounds from 16 on only (41_padding_endianness.md R118; 42_schedule.md R132). -/
theorem sequencerTurn_W (h : sequencerTurn s = .next s') :
    s'.W = s.W ∨ s.phase = .load ∨ (s.phase = .round ∧ 16 ≤ s.t.toNat) := by
  rcases sequencerTurn_next h with rfl | ⟨hp, -⟩ | ⟨-, rfl⟩ | ⟨hp, q, -, rfl⟩ | ⟨-, rfl⟩
  · exact .inl rfl
  · exact .inr (.inl hp)
  · exact .inl rfl
  · by_cases ht : s.t.toNat ≤ 15
    · exact .inl (schedBuffer_of_le s.W ht)
    · exact .inr (.inr ⟨hp, by omega⟩)
  · exact .inl (foldInto_W s)

/-- The sequencer writes the flags by the last FOLD only (43_compression.md R146). -/
theorem sequencerTurn_flags (h : sequencerTurn s = .next s') :
    SameFlags s s' ∨ (s.phase = .fold ∧ s.blk.toNat + 1 = nblk s.LEN.toNat ∧
      s'.BUSY = false ∧ s'.DONE = true ∧ s'.ERR = s.ERR) := by
  rcases sequencerTurn_next h with rfl | ⟨-, -, -, x, -, rfl⟩ | ⟨-, rfl⟩ | ⟨-, q, -, rfl⟩ | ⟨hp, rfl⟩
  case inr.inr.inr.inr =>
    cases hlast : lastBlock s with
    | true =>
      rw [foldInto_of_last s hlast]
      exact .inr ⟨hp, lastBlock_iff.1 hlast, rfl, rfl, rfl⟩
    | false =>
      rw [foldInto_of_more s hlast]
      exact .inl ⟨rfl, rfl, rfl⟩
  all_goals exact .inl ⟨rfl, rfl, rfl⟩

/-- Settles O17: only the host writes `LEN`, and not while `BUSY = 1`. -/
theorem lengthIsConstantDuringARun : Obligations.LengthIsConstantDuringARun := by
  intro s s' hB hr h
  cases stepEffect_of_step h with
  | reset he => exact absurd he hr
  | refusedStart => rfl
  | acceptedStart => rfl
  | turn _ hturn => exact (sequencerTurn_LEN hturn).trans (afterFetch_LEN s)
  | kept hk => exact hk.LEN hB

/-- Settles O18, effect by effect: an accepted START writes `H` alone of the three, and the turn of the sequencer each in its
own phases. -/
theorem datapathIsWrittenOnlyByItsWriters : Obligations.DatapathIsWrittenOnlyByItsWriters := by
  intro s s' h hr
  cases stepEffect_of_step h with
  | reset he => exact absurd he hr
  | refusedStart => exact ⟨absurd rfl, absurd rfl, absurd rfl⟩
  | acceptedStart he hb hl => exact ⟨fun _ => .inl ⟨he, hb, hl⟩, absurd rfl, absurd rfl⟩
  | turn he hturn =>
    exact ⟨fun hH => .inr ⟨he, (sequencerTurn_H hturn).resolve_left hH⟩,
      fun hw => ⟨he, (sequencerTurn_wv hturn).resolve_left hw⟩,
      fun hW => ⟨he, (sequencerTurn_W hturn).resolve_left hW⟩⟩
  | kept hk => exact ⟨absurd hk.H, absurd hk.wv, absurd hk.W⟩

/-- Settles O19, effect by effect: a START that is not ignored writes the flags by the length, and the last FOLD ends the
run. -/
theorem flagsChangeOnlyByTheirWriters : Obligations.FlagsChangeOnlyByTheirWriters := by
  intro s s' h hr
  cases stepEffect_of_step h with
  | reset he => exact absurd he hr
  | refusedStart he hb hl =>
    exact ⟨absurd rfl, fun _ => .inl ⟨rfl, he, hb⟩, fun _ => ⟨he, hb, by simpa using hl⟩⟩
  | acceptedStart he hb hl =>
    exact ⟨fun _ => .inl ⟨rfl, he, hb, hl⟩, fun _ => .inl ⟨rfl, he, hb⟩, fun _ => ⟨he, hb, by simpa using hl⟩⟩
  | turn he hturn =>
    rcases sequencerTurn_flags hturn with ⟨hB, hD, hE⟩ | ⟨hp, hlast, hB, hD, hE⟩
    · exact ⟨absurd hB, absurd hD, absurd hE⟩
    · exact ⟨fun _ => .inr ⟨hB, he, hp, hlast⟩, fun _ => .inr ⟨hD, he, hp, hlast⟩, absurd hE⟩
  | kept hk =>
    obtain ⟨hB, hD, hE⟩ := hk.flags
    exact ⟨absurd hB, absurd hD, absurd hE⟩

/-- Settles O20: in `IDLE` the turn of the sequencer changes nothing, and of the other effects only an accepted START leads to
another phase. -/
theorem onlyAnAcceptedStartLeavesIdle : Obligations.OnlyAnAcceptedStartLeavesIdle := by
  intro s s' hp h hp'
  cases stepEffect_of_step h with
  | reset => exact absurd rfl hp'
  | refusedStart => exact absurd hp hp'
  | acceptedStart he hb hl => exact ⟨he, (busy_eq_false_iff.1 hb).1, hl, rfl, rfl, rfl⟩
  | turn _ hturn =>
    rw [sequencerTurn_idle (s := afterFetch s) hp] at hturn
    cases hturn
    exact absurd hp hp'
  | kept hk => exact absurd (hk.position.1.trans hp) hp'

end Sys2Proof.Machine
end

section
/-! The message space: a byte the host places, what the core then reads, and that the core writes none (20_memory.md R52,
R53, R60). -/

namespace Sys2Proof.Machine

variable {s s' : State} {a x : Nat} {v : Byte}

theorem execStart_MSG (h : execStart s = .next s') : s'.MSG = s.MSG := by
  rcases execStart_next h with ⟨-, rfl⟩ | ⟨-, -, rfl⟩ | ⟨-, -, rfl⟩ <;> rfl

theorem sequencerTurn_MSG (h : sequencerTurn s = .next s') : s'.MSG = s.MSG := by
  rcases sequencerTurn_next h with rfl | ⟨-, -, -, x, -, rfl⟩ | ⟨-, rfl⟩ | ⟨-, q, -, rfl⟩ | ⟨-, rfl⟩
  case inr.inr.inr.inr => exact foldInto_MSG s
  all_goals rfl

theorem step_of_place {b : BitVec 64} (h : nextEvent s = .place b v) :
    step s = .next (placeByte b.toNat v (afterFetch s)) := by
  rw [step, h, runEvent]

/-- Settles O14, by what a step of each event can do: only a placed byte is a write. -/
theorem onlyTheHostWritesTheMessageSpace : Obligations.OnlyTheHostWritesTheMessageSpace := by
  intro s s' h
  refine ⟨fun hplace => ?_, fun b v hplace => ?_⟩
  · rcases step_cases h with ⟨r, -, -, hstart⟩ | ⟨r, -, -, rfl | ⟨v, rfl⟩ | ⟨v, rfl⟩ | ⟨x, n, rfl⟩⟩ |
      ⟨-, rfl⟩ | ⟨b, v, he, -⟩ | ⟨-, hturn⟩
    case inl => exact (execStart_MSG hstart).trans (afterFetch_MSG s)
    case inr.inr.inr.inr => exact (sequencerTurn_MSG hturn).trans (afterFetch_MSG s)
    case inr.inr.inr.inl => exact absurd he (hplace b v)
    all_goals simp
  · rw [step_of_place hplace] at h
    cases h
    rw [placeByte_MSG]
    exact ⟨Memory.read_write_same .., fun x hx => Memory.read_write_other _ v hx⟩

/-- What the core reads at an address depends on the byte placed there and the bytes replaced there. -/
theorem msgRead_congr (hstale : staleRead s'.stale x = staleRead s.stale x) (hmem : s'.MSG.read x = s.MSG.read x) :
    msgRead s' x = msgRead s x := by
  unfold msgRead
  rw [hstale, hmem]

theorem msgRead_of_staleRead {b : Byte} (h : staleRead s.stale x = some b) : msgRead s x = some b := by
  unfold msgRead
  rw [h]

theorem msgRead_of_staleRead_none (h : staleRead s.stale x = none) : msgRead s x = s.MSG.read x := by
  unfold msgRead
  rw [h]

theorem staleRead_cons_other {e : StaleByte} {l : List StaleByte} (h : e.addr ≠ x) :
    staleRead (e :: l) x = staleRead l x :=
  if_neg fun hrace => h hrace.1

/-- A replaced byte is still read, or the replacement is as if it were not remembered (20_memory.md R60). -/
theorem staleRead_cons_cases (e : StaleByte) (l : List StaleByte) (x : Nat) :
    staleRead (e :: l) x = some e.old ∨ staleRead (e :: l) x = staleRead l x := by
  rw [staleRead]
  split
  · exact .inl rfl
  · exact .inr rfl

/-- Outside a run, and outside the message, replacing a byte is no race (20_memory.md R60). -/
theorem racedByte_eq_none (h : s.BUSY = false ∨ s.LEN.toNat ≤ a) : racedByte s a v = none := by
  refine if_neg fun ⟨hB, ha⟩ => ?_
  rcases h with h | h
  · simp [hB] at h
  · omega

/-- The byte of a race is the one placed before. -/
theorem read_of_racedByte {old : Byte} (h : racedByte s a v = some old) : s.MSG.read a = some old := by
  unfold racedByte at h
  cases hread : s.MSG.read a with
  | none => simp [hread] at h
  | some b =>
    simp only [hread] at h
    split at h
    · split at h
      · cases h
      · exact h
    · cases h

/-- Without a race nothing is remembered but the byte placed. -/
theorem placeByte_of_no_race (h : racedByte s a v = none) : placeByte a v s = { s with MSG := s.MSG.write a v } := by
  rw [placeByte, h]

/-- Every address but the one a byte is placed at reads as before. -/
theorem msgRead_placeByte_other (h : x ≠ a) : msgRead (placeByte a v s) x = msgRead s x := by
  refine msgRead_congr ?_ (by rw [placeByte_MSG, Memory.read_write_other _ v h])
  rcases placeByte_cases a v s with ⟨old, -, hplace⟩ | ⟨-, hplace⟩ <;> rw [hplace]
  exact staleRead_cons_other h.symm

/-- Without a race, now or before in this run, the core reads the byte placed (20_memory.md R52). -/
theorem msgRead_placeByte_of_no_race (hstale : s.stale = []) (h : s.BUSY = false ∨ s.LEN.toNat ≤ a) :
    msgRead (placeByte a v s) a = some v := by
  rw [placeByte_of_no_race (racedByte_eq_none h)]
  exact (msgRead_of_no_stale (s := { s with MSG := s.MSG.write a v }) a hstale).trans (Memory.read_write_same ..)

/-- Where no earlier byte comes to be read, the core reads the byte placed, unless it read an earlier one before. -/
theorem msgRead_placeByte_of_staleRead_eq (h : staleRead (placeByte a v s).stale a = staleRead s.stale a) :
    msgRead (placeByte a v s) a = some v ∨ msgRead (placeByte a v s) a = msgRead s a := by
  cases hb : staleRead s.stale a with
  | none =>
    rw [msgRead_of_staleRead_none (h.trans hb), placeByte_MSG, Memory.read_write_same]
    exact .inl rfl
  | some b =>
    rw [msgRead_of_staleRead (h.trans hb), msgRead_of_staleRead hb]
    exact .inr rfl

/-- After a byte is placed the core reads it, the byte placed before, or what it read before (20_memory.md R60). -/
theorem msgRead_placeByte_same (a : Nat) (v : Byte) (s : State) :
    msgRead (placeByte a v s) a = some v ∨ msgRead (placeByte a v s) a = s.MSG.read a ∨
      msgRead (placeByte a v s) a = msgRead s a := by
  rcases placeByte_cases a v s with ⟨old, hrace, hplace⟩ | ⟨-, hplace⟩
  · rcases staleRead_cons_cases { addr := a, old := old, draw := s.draws } s.stale a with hold | hbefore
    · rw [read_of_racedByte hrace, hplace]
      exact .inr (.inl (msgRead_of_staleRead hold))
    · exact (msgRead_placeByte_of_staleRead_eq (by rw [hplace, hbefore])).imp_right .inr
  · exact (msgRead_placeByte_of_staleRead_eq (by rw [hplace])).imp_right .inr

/-- Settles O15: the byte placed is read, or raced, and the state of the core is that before. -/
theorem placedByteIsReadOrRaces : Obligations.PlacedByteIsReadOrRaces := by
  intro s b v rest h
  refine ⟨placeByte b.toNat v { s with agenda := rest }, step_of_cons h, msgRead_placeByte_same _ _ _,
    fun hstale hrun => msgRead_placeByte_of_no_race hstale hrun, fun x hx => msgRead_placeByte_other hx, ?_⟩
  simp [SamePosition, SameFlags]

end Sys2Proof.Machine
end

section
/-! What a LOADW depends on in the message space, and the addresses of all LOADW steps of a run (20_memory.md R52, R56;
41_padding_endianness.md R118). -/

namespace Sys2Proof.Machine

variable {s s' : State}

/-- A LOADW whose four bytes do not all come has no word. -/
theorem loadWord_eq_none {k : Nat} (hk : k < 4) (h : statePadByte s (wordIndex s + k) = none) : loadWord s = none := by
  unfold loadWord
  split
  · interval_cases k <;> simp_all
  · rfl

/-- A byte of the message that is not delivered is a byte of the padded message that is not (41_padding_endianness.md
R112). -/
theorem statePadByte_of_lt {j : Nat} (h : j < s.LEN.toNat) : statePadByte s j = msgRead s j := by
  rw [statePadByte, padByte, if_pos h]

/-- Settles O30: the word is missing a byte, so the LOADW is silent. -/
theorem loadwWaitsForTheMessagePort : Obligations.LoadwWaitsForTheMessagePort := by
  intro s k hp ht hL hb hk hlt hnone
  have hword : loadWord s = none := loadWord_eq_none hk ((statePadByte_of_lt hlt).trans hnone)
  exact execLoadw_silent hp ht (padDefined_of_block hL hb ht) hword

theorem mem_loadAddresses {L blk t k : Nat} (hk : k < 4) (h : 64 * blk + 4 * t + k < L) :
    64 * blk + 4 * t + k ∈ loadAddresses L blk t := by
  refine List.mem_filter.2 ⟨List.mem_map_of_mem ?_, by simpa using h⟩
  simp only [List.mem_cons]
  omega

/-- The word of a LOADW depends on the message space at the addresses of the LOADW only (20_memory.md R56). -/
theorem loadWord_with_MSG {M : Memory}
    (hM : ∀ a ∈ loadAddresses s.LEN.toNat s.blk.toNat s.t.toNat, Memory.read M a = s.MSG.read a) :
    loadWord { s with MSG := M } = loadWord s := by
  have hbyte : ∀ k < 4, statePadByte { s with MSG := M } (wordIndex s + k) = statePadByte s (wordIndex s + k) :=
    fun k hk => padByte_congr fun hlt => msgRead_congr rfl (hM _ (mem_loadAddresses hk hlt))
  have hbyte0 := hbyte 0 (by decide)
  rw [Nat.add_zero] at hbyte0
  have hindex : wordIndex { s with MSG := M } = wordIndex s := rfl
  unfold loadWord
  rw [hindex, hbyte0, hbyte 1 (by decide), hbyte 2 (by decide), hbyte 3 (by decide)]

/-- Beyond its word a LOADW does not depend on the message space. -/
theorem execLoadw_with_MSG {M : Memory} (hword : loadWord { s with MSG := M } = loadWord s)
    (h : execLoadw s = .next s') : execLoadw { s with MSG := M } = .next { s' with MSG := M } := by
  obtain ⟨hp, ht, hd, ⟨w, hw, rfl⟩ | ⟨hw, rfl⟩⟩ := execLoadw_next h
  · exact execLoadw_loads hp ht hd (hword.trans hw)
  · exact execLoadw_silent hp ht hd (hword.trans hw)

/-- Consecutive runs of `k` numbers, one after the other, are all numbers below their end. -/
theorem flatMap_range_blocks (k n : Nat) :
    (List.range n).flatMap (fun i => (List.range k).map (k * i + ·)) = List.range (k * n) := by
  induction n with
  | zero => simp
  | succ n ih => rw [List.range_succ, List.flatMap_append, ih, List.flatMap_singleton, Nat.mul_succ, List.range_add]

theorem filter_range_lt {L N : Nat} (h : L ≤ N) : (List.range N).filter (fun a => decide (a < L)) = List.range L := by
  obtain ⟨d, rfl⟩ := Nat.exists_eq_add_of_le h
  have hlow : (List.range L).filter (fun a => decide (a < L)) = List.range L := by simp
  have hhigh : ((List.range d).map (L + ·)).filter (fun a => decide (a < L)) = [] := by simp
  rw [List.range_add, List.filter_append, hlow, hhigh, List.append_nil]

/-- The addresses of the LOADW steps of a block are those of the block below `L`. -/
theorem flatMap_loadAddresses (L n : Nat) :
    (List.range 16).flatMap (fun i => loadAddresses L n i) =
      ((List.range 64).map (64 * n + ·)).filter (fun a => decide (a < L)) := by
  rw [← flatMap_range_blocks 4 16, List.map_flatMap, List.filter_flatMap]
  simp only [List.map_map, Function.comp_def, ← Nat.add_assoc]
  rfl

/-- The padding makes the blocks of a message long enough for it (41_padding_endianness.md R110). -/
theorem le_blocks (L : Nat) : L ≤ 64 * nblk L := by
  unfold nblk
  omega

/-- Settles O31: a LOADW reads its own addresses, and the blocks of a run are all addresses in order, cut off at `L`. -/
theorem messageIsReadOnceInOrder : Obligations.MessageIsReadOnceInOrder := by
  refine ⟨fun s s' M hM h => execLoadw_with_MSG (loadWord_with_MSG hM) h, fun L => ?_⟩
  calc (List.range (nblk L)).flatMap (fun n => (List.range 16).flatMap (fun i => loadAddresses L n i))
      = ((List.range (nblk L)).flatMap (fun n => (List.range 64).map (64 * n + ·))).filter (fun a => decide (a < L)) := by
        simp only [flatMap_loadAddresses, List.filter_flatMap]
    _ = List.range L := by rw [flatMap_range_blocks, filter_range_lt (le_blocks L)]

end Sys2Proof.Machine
end

section
/-! Records and selectors as words: a record is its three fields, a selector its two, and the meaning of each value
(30_encoding.md R71 to R79). -/

namespace Sys2Proof.Machine

variable {r : Record} {u : Selector} {i : Instr}

/-- A record is made of its own fields (30_encoding.md R71). -/
theorem makeRecord_fields (r : Record) : makeRecord (recordIsWrite r) (recordNumber r) (recordValue r) = r := by
  apply BitVec.eq_of_getLsbD_eq
  intro j hj
  rw [makeRecord_getLsbD]
  split
  · simp [recordValue, *]
  · split
    · have hnumber : j - 32 < 4 := by omega
      have hbit : 32 + (j - 32) = j := by omega
      simp [recordNumber, hnumber, hbit]
    · obtain rfl : j = 36 := by omega
      simp [recordIsWrite]

/-- A mask applies to each field of a record (30_encoding.md R74). -/
theorem makeRecord_and (d d' : Bool) (n n' : BitVec 4) (v v' : Word) :
    makeRecord d n v &&& makeRecord d' n' v' = makeRecord (d && d') (n &&& n') (v &&& v') := by
  apply BitVec.eq_of_getLsbD_eq
  intro j hj
  simp only [BitVec.getLsbD_and, makeRecord_getLsbD]
  split
  · rfl
  · split
    · rfl
    · cases decide (j = 36) <;> simp

theorem selector_toNat (c : BitVec 3) (q : BitVec 2) :
    ((c ++ q).cast (by decide) : Selector).toNat = 4 * c.toNat + q.toNat := by
  rw [BitVec.toNat_cast, BitVec.toNat_append, ← Nat.shiftLeft_add_eq_or_of_lt q.isLt, Nat.shiftLeft_eq, Nat.mul_comm]

/-- A register other than `CTRL` and the two halves of `LEN` ignores writes (30_encoding.md R77). -/
theorem decodeWrite_ignored {x : Reg} (v : Word) (hctrl : x ≠ .ctrl) (hlo : x ≠ .lenLo) (hhi : x ≠ .lenHi) :
    decodeWrite x v = .reject (.ignoredWrite x) := by
  cases x with
  | ctrl => exact absurd rfl hctrl
  | lenLo => exact absurd rfl hlo
  | lenHi => exact absurd rfl hhi
  | status | digest | reserved => rfl

theorem regOfNumber_ne {n : BitVec 4} {x : Reg} (h : n ≠ regNumber x) : regOfNumber n ≠ x := by
  rintro rfl
  exact h (regNumber_regOfNumber n).symm

theorem decodeHost_ctrl (v : Word) :
    decodeHost (makeRecord true 0 v) = if v.getLsbD 0 = true then .instr .start else .instr .nop :=
  decodeHost_write 0 v

theorem decodeHost_lenLo (v : Word) : decodeHost (makeRecord true 2 v) = .instr (.wrlenlo v) := decodeHost_write 2 v

theorem decodeHost_lenHi (v : Word) : decodeHost (makeRecord true 3 v) = .instr (.wrlenhi v) := decodeHost_write 3 v

theorem decodeHost_ignored {n : BitVec 4} (v : Word) (h0 : n ≠ 0) (h2 : n ≠ 2) (h3 : n ≠ 3) :
    decodeHost (makeRecord true n v) = .reject (.ignoredWrite (regOfNumber n)) :=
  (decodeHost_write n v).trans (decodeWrite_ignored v (regOfNumber_ne h0) (regOfNumber_ne h2) (regOfNumber_ne h3))

/-- The rows of format H: which records are words of which operation (30_encoding.md R74). -/
inductive HostRow : Record → Instr → Prop where
  | start (v : Word) (h : v.getLsbD 0 = true) : HostRow (makeRecord true 0 v) .start
  | nop (v : Word) (h : v.getLsbD 0 = false) : HostRow (makeRecord true 0 v) .nop
  | wrlenlo (v : Word) : HostRow (makeRecord true 2 v) (.wrlenlo v)
  | wrlenhi (v : Word) : HostRow (makeRecord true 3 v) (.wrlenhi v)
  | rdreg (n : BitVec 4) (v : Word) : HostRow (makeRecord false n v) (.rdreg (regOfNumber n))

/-- A record that decodes to an operation stands in its row. -/
theorem hostRow_of_decodeHost (h : decodeHost r = .instr i) : HostRow r i := by
  rw [← makeRecord_fields r] at h ⊢
  generalize recordIsWrite r = d, recordNumber r = n, recordValue r = v at h ⊢
  cases d with
  | false =>
    rw [decodeHost_read] at h
    cases h
    exact .rdreg n v
  | true =>
    by_cases h0 : n = 0
    · subst h0
      rw [decodeHost_ctrl] at h
      split at h
      · cases h
        exact .start v ‹_›
      · cases h
        exact .nop v (Bool.eq_false_of_not_eq_true ‹_›)
    by_cases h2 : n = 2
    · subst h2
      rw [decodeHost_lenLo] at h
      cases h
      exact .wrlenlo v
    by_cases h3 : n = 3
    · subst h3
      rw [decodeHost_lenHi] at h
      cases h
      exact .wrlenhi v
    rw [decodeHost_ignored v h0 h2 h3] at h
    cases h

theorem HostRow.wf (h : HostRow r i) : i.wf = true := by
  cases h with
  | rdreg n v => exact regOfNumber_wf n
  | start | nop | wrlenlo | wrlenhi => rfl

/-- The words of a row's operation are the row's record with its ignored bits cleared (30_encoding.md R71, R76). -/
theorem HostRow.encode_eq (h : HostRow r i) : encode i = .host (r &&& careBits i) := by
  have hctrl : (0x1F00000001 : Record) = makeRecord true 15 1#32 := by decide
  have hwrite : (0x1FFFFFFFFF : Record) = makeRecord true 15 (BitVec.allOnes 32) := by decide
  have hread : (0x1F00000000 : Record) = makeRecord true 15 0#32 := by decide
  cases h with
  | start v hv =>
    rw [careBits, hctrl, makeRecord_and, BitVec.and_one_eq_setWidth_ofBool_getLsbD, hv]
    rfl
  | nop v hv =>
    rw [careBits, hctrl, makeRecord_and, BitVec.and_one_eq_setWidth_ofBool_getLsbD, hv]
    rfl
  | wrlenlo v =>
    rw [careBits, hwrite, makeRecord_and, BitVec.and_allOnes]
    rfl
  | wrlenhi v =>
    rw [careBits, hwrite, makeRecord_and, BitVec.and_allOnes]
    rfl
  | rdreg n v =>
    have hn : n &&& 15 = n := BitVec.and_allOnes
    rw [encode, regNumber_regOfNumber, careBits, hread, makeRecord_and, hn, BitVec.and_zero]
    rfl

/-- A selector is its operation's word: no bit of it is ignored (30_encoding.md R74). -/
theorem encode_of_decodeUsel (h : decodeUsel u = .instr i) : encode i = .usel u := by
  unfold decodeUsel at h
  split_ifs at h <;> cases h
  all_goals
    subst u
    rfl

theorem wf_of_encode_usel (h : encode i = .usel u) : i.wf = true := by
  cases i with
  | rdreg x => cases h
  | _ => rfl

end Sys2Proof.Machine
end

section
/-! The encoding's statements: each is read off the rows of the two formats (30_encoding.md R71 to R79). -/

namespace Sys2Proof.Machine

/-- Settles O1, by the two formats: a record gives its fields back, and each micro-operation has its own selector. -/
theorem decodeOfEncodeIsTheInstruction : Obligations.DecodeOfEncodeIsTheInstruction := by
  intro i hi
  cases i with
  | start | nop => exact decodeHost_ctrl _
  | wrlenlo v => exact decodeHost_lenLo v
  | wrlenhi v => exact decodeHost_lenHi v
  | rdreg x =>
    have hnumber : regOfNumber (regNumber x) = x := regOfNumber_regNumber hi
    rw [encode, decode, decodeHost_read, hnumber]
  | loadw | seed | rnd0 | rnd1 | rnd2 | rnd3 | fold => rfl

/-- Settles O2: a decoded record stands in a row of format H, and a decoded selector is its operation's word. -/
theorem decodedInstructionIsWellFormed : Obligations.DecodedInstructionIsWellFormed := by
  refine ⟨fun c i h => ?_, fun r i h => ⟨_, (hostRow_of_decodeHost h).encode_eq⟩,
    fun u i h => ⟨u, encode_of_decodeUsel h⟩⟩
  cases c with
  | host r => exact (hostRow_of_decodeHost h).wf
  | usel u => exact wf_of_encode_usel (encode_of_decodeUsel h)

/-- Settles O3, row by row of the two formats. -/
theorem encodeOfDecodeKeepsTheCareBits : Obligations.EncodeOfDecodeKeepsTheCareBits :=
  ⟨fun _ _ h => (hostRow_of_decodeHost h).encode_eq, fun _ _ h => encode_of_decodeUsel h⟩

/-- Settles O4: a record is its three fields, and a write is told by its register's number. -/
theorem everyRecordHasOneMeaning : Obligations.EveryRecordHasOneMeaning := by
  refine ⟨fun r => ⟨_, _, _, (makeRecord_fields r).symm⟩, fun d n v => ?_, by decide⟩
  cases d with
  | false => exact decodeHost_read n v
  | true =>
    rw [if_neg (by decide)]
    split_ifs with h0 hv h2 h3
    · rw [h0, decodeHost_ctrl, if_pos hv]
    · rw [h0, decodeHost_ctrl, if_neg hv]
    · rw [h2, decodeHost_lenLo]
    · rw [h3, decodeHost_lenHi]
    · exact decodeHost_ignored v h0 h2 h3

/-- Settles O5: the position's two fields make the selector, and each of its 32 values is looked up. -/
theorem selectorNamesTheEnabledStep : Obligations.SelectorNamesTheEnabledStep := by
  refine ⟨fun s ht => ?_, by decide⟩
  unfold usel
  split
  · have hq : quarter s.t.toNat < 4 := quarter_lt (ht ‹_›)
    rw [if_pos (ht ‹_›)]
    refine ⟨_, rfl, ?_⟩
    rw [selector_toNat, BitVec.toNat_ofNat, Nat.mod_eq_of_lt hq, quarter]
  · exact ⟨_, rfl, selector_toNat _ _⟩

/-- Settles O10: such a write decodes to no operation, and a host transaction always answers next. -/
theorem ignoredWritesChangeNothing : Obligations.IgnoredWritesChangeNothing := by
  refine ⟨fun s n v rest hn h => ?_, fun s r rest h => ?_⟩
  · obtain ⟨h0, h2, h3⟩ : n ≠ 0 ∧ n ≠ 2 ∧ n ≠ 3 := by
      clear h
      revert n
      decide
    exact (stepRunsTheDecodedTransaction s _ rest h).2 _ (decodeHost_ignored v h0 h2 h3)
  · rw [step_of_cons h]
    exact runRecord_answers r _

/-- Settles O6, by evaluation of the decoder at each word. -/
theorem wordsOfTheSpecDecode : Obligations.WordsOfTheSpecDecode := by
  unfold Obligations.WordsOfTheSpecDecode
  decide

end Sys2Proof.Machine
end

section
/-! The reserved phases: `BUSY` reads 1 there, and the core is stuck until reset (30_encoding.md R78). -/

namespace Sys2Proof.Machine

variable {s : State}

/-- `STATUS` is its three flags, `BUSY` as the host operations read it (10_state.md R32). -/
theorem statusWord_toNat (s : State) :
    (statusWord s).toNat = 4 * s.ERR.toNat + 2 * s.DONE.toNat + (busy s).toNat := by
  unfold statusWord
  generalize s.ERR = E, s.DONE = D, busy s = B
  revert E D B
  decide

theorem execStart_of_busy (hb : busy s = true) : execStart s = .next s := if_pos hb

/-- While `BUSY` reads 1 a host transaction changes nothing but the value returned to the host (44_driver_host.md R162, R164,
R166). -/
theorem runRecord_of_busy (r : Record) (hb : busy s = true) :
    ∃ x n, runRecord r s = .next { s with reply := x, draws := n } := by
  obtain ⟨s', h⟩ := runRecord_answers r s
  rw [h]
  rcases runRecord_next h with ⟨-, hstart⟩ | ⟨-, rfl | ⟨v, rfl⟩ | ⟨v, rfl⟩ | ⟨x, rfl⟩⟩
  · rw [execStart_of_busy hb] at hstart
    cases hstart
    exact ⟨s.reply, s.draws, rfl⟩
  · exact ⟨s'.reply, s'.draws, rfl⟩
  · exact ⟨s.reply, s.draws, congrArg _ (writeLenLow_of_busy v hb)⟩
  · exact ⟨s.reply, s.draws, congrArg _ (writeLenHigh_of_busy v hb)⟩
  · exact ⟨_, _, rfl⟩

/-- In a reserved phase only a reset gets the core out: every other step keeps the core and the length. -/
theorem step_of_reservedPhase (hp : reservedPhase s.phase = true) (he : nextEvent s ≠ .reset) :
    ∃ s', step s = .next s' ∧ KeepsCore (afterFetch s) s' ∧ s'.LEN = s.LEN := by
  unfold step
  cases hevent : nextEvent s with
  | txn r =>
    have hbusy : busy (afterFetch s) = true := busy_of_reservedPhase hp
    obtain ⟨x, n, h⟩ := runRecord_of_busy r hbusy
    exact ⟨_, h, keepsCore_reply _ x n, rfl⟩
  | reset => exact absurd hevent he
  | place a v => exact ⟨_, rfl, keepsCore_placeByte a v _, placeByte_LEN _ _ _⟩
  | core => exact ⟨_, sequencerTurn_of_reservedPhase hp, .refl _, rfl⟩

/-- Settles O59: `BUSY` reads 1 in a reserved phase, so the host is ignored, and no micro-operation is enabled there. -/
theorem reservedPhaseIsStuckUntilReset : Obligations.ReservedPhaseIsStuckUntilReset := by
  intro s hp
  have hb : busy s = true := busy_of_reservedPhase hp
  refine ⟨sequencerTurn_of_reservedPhase hp, fun he => ?_, ⟨_, statusWord s, rfl, rfl, ?_⟩, execStart_of_busy hb,
    fun v => ⟨?_, ?_⟩, fun he => ?_⟩
  · obtain ⟨s', hstep, hkept, hLEN⟩ := step_of_reservedPhase hp he
    exact ⟨s', hstep, hkept.position, hkept.flags, hLEN, hkept.H, hkept.wv, hkept.W⟩
  · rw [statusWord_toNat, hb]
    rfl
  · exact congrArg _ (writeLenLow_of_busy v hb)
  · exact congrArg _ (writeLenHigh_of_busy v hb)
  · refine ⟨resetEvent (afterFetch s), ?_, resetEvent_phase _, busy_resetEvent⟩
    rw [step, he, runEvent]

end Sys2Proof.Machine
end

section
/-! The pure functions bit by bit: the rotation, the byte swap and the round functions (40_primitives.md R91 to R98). -/

namespace Sys2Proof.Machine

/-- A rotation by `n` moves bit `i` to bit `(i + n) mod 32` (40_primitives.md R91). -/
theorem rotl32_getLsbD (x : Word) (n : Fin 32) {i : Nat} (hi : i < 32) :
    (rotl32 x n).getLsbD ((i + n.val) % 32) = x.getLsbD i := by
  have hn := n.isLt
  rw [rotl32_eq, BitVec.getLsbD_rotateLeft, Nat.mod_eq_of_lt hn]
  by_cases hwrap : i + n.val < 32
  · -- The bit stays below bit 32: it stands at or above bit `n`.
    rw [Nat.mod_eq_of_lt hwrap, decide_eq_false (by omega), cond_false, decide_eq_true hwrap, Bool.true_and,
      Nat.add_sub_cancel]
  · -- The bit leaves at the top and comes back below bit `n`.
    have hsource : 32 - n.val + (i + n.val) % 32 = i := by omega
    rw [decide_eq_true (by omega), cond_true, hsource]

/-- Two rotations that turn the word once around give it back (40_primitives.md R91). -/
theorem rotl32_rotl32_of_add_eq (x : Word) {n m : Fin 32} (h : n.val + m.val = 32) : rotl32 (rotl32 x n) m = x := by
  apply BitVec.eq_of_getLsbD_eq
  intro i hi
  have haround : ((i + n.val) % 32 + m.val) % 32 = i := by omega
  calc (rotl32 (rotl32 x n) m).getLsbD i
      = (rotl32 (rotl32 x n) m).getLsbD (((i + n.val) % 32 + m.val) % 32) := by rw [haround]
    _ = (rotl32 x n).getLsbD ((i + n.val) % 32) := rotl32_getLsbD _ m (Nat.mod_lt _ (by decide))
    _ = x.getLsbD i := rotl32_getLsbD x n hi

/-- Byte `k` of the swapped word is byte `3 - k` (40_primitives.md R92). -/
theorem bswap32_byte (x : Word) {k : Nat} (hk : k < 4) :
    (bswap32 x).extractLsb' (8 * k) 8 = x.extractLsb' (8 * (3 - k)) 8 := by
  unfold bswap32
  rw [BitVec.cast_eq]
  match k, hk with
  | 0, _ => rw [BitVec.extractLsb'_append_eq_right]
  | 1, _ => rw [BitVec.extractLsb'_append_eq_of_le (by decide), BitVec.extractLsb'_append_eq_right]
  | 2, _ =>
    rw [BitVec.extractLsb'_append_eq_of_le (by decide), BitVec.extractLsb'_append_eq_of_le (by decide),
      BitVec.extractLsb'_append_eq_right]
  | 3, _ =>
    rw [BitVec.extractLsb'_append_eq_of_le (by decide), BitVec.extractLsb'_append_eq_of_le (by decide),
      BitVec.extractLsb'_append_eq_left]

/-- A word is its four bytes. -/
theorem word_eq_of_bytes_eq {x y : Word} (h : ∀ k < 4, x.extractLsb' (8 * k) 8 = y.extractLsb' (8 * k) 8) : x = y := by
  apply BitVec.eq_of_getLsbD_eq
  intro i hi
  have hj : i % 8 < 8 := Nat.mod_lt _ (by decide)
  have hbit := congrArg (BitVec.getLsbD · (i % 8)) (h (i / 8) (by omega))
  simpa only [BitVec.getLsbD_extractLsb', hj, decide_true, Bool.true_and, Nat.div_add_mod] using hbit

/-- The swap is its own inverse: byte `k` goes to `3 - k` and back (40_primitives.md R92). -/
theorem bswap32_bswap32 (x : Word) : bswap32 (bswap32 x) = x :=
  word_eq_of_bytes_eq fun k hk => by
    rw [bswap32_byte _ hk, bswap32_byte x (by omega), Nat.sub_sub_self (by omega)]

section RoundFunctions

variable (b c d : Word) (i : Nat)

/-- `f_0` chooses by the bit of `b` (40_primitives.md R98). -/
theorem f0_getLsbD : (f0 b c d).getLsbD i = if b.getLsbD i then c.getLsbD i else d.getLsbD i := by
  simp only [f0, BitVec.getLsbD_xor, BitVec.getLsbD_and]
  cases b.getLsbD i with
  | false => simp
  | true => simp [Bool.xor_comm (c.getLsbD i)]

/-- `f_1` is the parity: one or three of the three bits are 1 (40_primitives.md R98). -/
theorem f1_getLsbD : (f1 b c d).getLsbD i =
    ((b.getLsbD i).toNat + (c.getLsbD i).toNat + (d.getLsbD i).toNat == 1 ||
      (b.getLsbD i).toNat + (c.getLsbD i).toNat + (d.getLsbD i).toNat == 3) := by
  simp only [f1, BitVec.getLsbD_xor]
  generalize b.getLsbD i = x, c.getLsbD i = y, d.getLsbD i = z
  revert x y z
  decide

/-- `f_2` is the majority: at least two of the three bits are 1 (40_primitives.md R98). -/
theorem f2_getLsbD : (f2 b c d).getLsbD i =
    decide (2 ≤ (b.getLsbD i).toNat + (c.getLsbD i).toNat + (d.getLsbD i).toNat) := by
  simp only [f2, BitVec.getLsbD_or, BitVec.getLsbD_and]
  generalize b.getLsbD i = x, c.getLsbD i = y, d.getLsbD i = z
  revert x y z
  decide

theorem f0_eq_textbook : f0 b c d = (b &&& c) ||| (~~~b &&& d) := by
  apply BitVec.eq_of_getLsbD_eq
  intro i hi
  rw [f0_getLsbD]
  simp only [BitVec.getLsbD_or, BitVec.getLsbD_and, BitVec.getLsbD_not, hi, decide_true, Bool.true_and]
  cases b.getLsbD i <;> simp

/-- Both forms distribute `d` over `b` and `c` (40_primitives.md R96, R98). -/
theorem f2_eq_textbook : f2 b c d = (b &&& c) ||| (b &&& d) ||| (c &&& d) := by
  rw [f2, BitVec.and_or_distrib_left, BitVec.and_comm d b, BitVec.and_comm d c, BitVec.or_assoc]

end RoundFunctions

end Sys2Proof.Machine
end

section
/-! The primitives' statements (40_primitives.md R91 to R98). -/

namespace Sys2Proof.Machine

/-- Settles O41: each bit moves by the amount, and the two amounts turn the word once around. -/
theorem rotationMovesEachBit : Obligations.RotationMovesEachBit :=
  ⟨fun x n _ hi => rotl32_getLsbD x n hi,
    fun x _ _ hn => rotl32_rotl32_of_add_eq x (Nat.add_sub_of_le (Nat.le_succ_of_le hn))⟩

/-- Settles O42, by where each bit of each byte comes from. -/
theorem byteSwapReversesTheBytes : Obligations.ByteSwapReversesTheBytes :=
  fun x => ⟨fun _ hk => bswap32_byte x hk, bswap32_bswap32 x⟩

/-- Settles O43, by the truth table of each round function. -/
theorem roundFunctionsMatchTheTextbookForms : Obligations.RoundFunctionsMatchTheTextbookForms :=
  fun b c d => ⟨f0_eq_textbook b c d, f2_eq_textbook b c d,
    fun i _ => ⟨f0_getLsbD b c d i, f1_getLsbD b c d i, f2_getLsbD b c d i, rfl⟩⟩

end Sys2Proof.Machine
end

section
/-! LOADW of a run: the word it loads, what it leaves unchanged, and the byte order of the host (41_padding_endianness.md
R117, R118). -/

namespace Sys2Proof.Machine

variable {s s' : State}

/-- The core reads what it read before where the placed bytes and the replaced ones are the same. -/
theorem sameMessage_of_eq (hMSG : s'.MSG = s.MSG) (hstale : s'.stale = s.stale) : SameMessage s s' :=
  fun _ => ⟨by rw [hMSG], msgRead_congr (by rw [hstale]) (by rw [hMSG])⟩

/-- Slot `t` of the buffer is the only one that a LOADW writes (41_padding_endianness.md R118). -/
theorem slotRead_loadInto_other (x : Word) {i : Nat} (ht : s.t.toNat ≤ 15) (hi : i < 16) (hne : i ≠ s.t.toNat) :
    slotRead (loadInto x s).W i = slotRead s.W i :=
  slotRead_slotWrite_other _ _ (by omega)

/-- After slot 15 the position goes to SEED and keeps `t` (41_padding_endianness.md R118). -/
theorem loadInto_position_last (x : Word) (ht : s.t.toNat = 15) :
    (loadInto x s).phase = .seed ∧ (loadInto x s).t = s.t :=
  ⟨if_pos ht, if_pos ht⟩

/-- Before slot 15 the position goes to the next slot (41_padding_endianness.md R118). -/
theorem loadInto_position_next (x : Word) (hp : s.phase = .load) (ht : s.t.toNat < 15) :
    (loadInto x s).phase = .load ∧ (loadInto x s).t.toNat = s.t.toNat + 1 := by
  have hne : s.t.toNat ≠ 15 := Nat.ne_of_lt ht
  rw [loadInto_phase, loadInto_t, if_neg hne, if_neg hne]
  exact ⟨hp, t_succ (by omega)⟩

/-- Settles O29: the port delivers the word of the block, and LOADW writes it to its slot. -/
theorem loadwLoadsTheBlockWord : Obligations.LoadwLoadsTheBlockWord := by
  refine ⟨rfl, fun s m hp ht hl hb hm => ⟨loadInto (blockWord m s.blk.toNat s.t.toNat) s, ?_, ?_⟩⟩
  · have hd : padDefined s = true := padDefined_of_block (by rwa [hm.1]) (by rwa [hm.1]) ht
    exact execLoadw_loads hp ht hd (loadWord_eq_blockWord hm hb ht)
  · obtain ⟨hH, hLEN, hblk, hMSG, hstale, hflags, haround⟩ := withinBlock_loadInto (blockWord m s.blk.toNat s.t.toNat) s
    exact ⟨slotRead_slotWrite_same .., fun i hi hne => slotRead_loadInto_other _ ht hi hne, loadInto_position_last _,
      loadInto_position_next _ hp, hH, rfl, hLEN, hblk, hflags, sameMessage_of_eq hMSG hstale, haround⟩

/-- The lane packs the four bytes and the adapter takes them out again: the word does not depend on the byte order of the
host (41_padding_endianness.md R117). -/
theorem loadWord_with_hostLE (s : State) (le : Bool) : loadWord { s with hostLE := le } = loadWord s := by
  unfold loadWord
  simp only [adapt_packHost]
  rfl

/-- Settles O32: the word is the same, and LOADW uses the byte order for its word only. -/
theorem loadwIgnoresTheHostByteOrder : Obligations.LoadwIgnoresTheHostByteOrder := by
  intro s s' le h
  obtain ⟨hp, ht, hd, ⟨x, hx, rfl⟩ | ⟨hx, rfl⟩⟩ := execLoadw_next h
  · exact execLoadw_loads hp ht hd ((loadWord_with_hostLE s le).trans hx)
  · exact execLoadw_silent hp ht hd ((loadWord_with_hostLE s' le).trans hx)

end Sys2Proof.Machine
end

section
/-! The padded length, the big-endian word and the length field of the last block (41_padding_endianness.md R110 to R119). -/

namespace Sys2Proof.Machine

/-- The padded message is a whole number of blocks, has room for the `0x80` and the length, and no block more than that
(41_padding_endianness.md R110). -/
theorem paddedLen_bounds (L : Nat) : paddedLen L % 64 = 0 ∧ L + 9 ≤ paddedLen L ∧ paddedLen L ≤ L + 72 := by
  unfold paddedLen nblk
  omega

/-- Settles O44: a multiple of 64 less than `P` is at most `P - 64`, and `P` is below `L + 73`. -/
theorem paddedLengthIsTheLeastMultiple : Obligations.PaddedLengthIsTheLeastMultiple := by
  intro L hL
  obtain ⟨hmultiple, hroom, hmost⟩ := paddedLen_bounds L
  refine ⟨hmultiple, hroom, hmost, fun P hP hle => by omega, nblk_le hL, fun h56 => ?_⟩
  unfold nblk
  omega

/-- Settles O45, with the message itself as what the port reads. -/
theorem padByteIsTheBytePadded : Obligations.PadByteIsTheBytePadded :=
  fun m _ => ⟨paddedMessage_length m, fun _ hj => padByte_eq_paddedByte (fun _ hi => List.getElem?_eq_getElem hi) hj⟩

/-- A byte appended at the low end. -/
theorem toNat_append_byte {n : Nat} (x : BitVec n) (b : Byte) : (x ++ b).toNat = x.toNat * 2 ^ 8 + b.toNat := by
  rw [BitVec.toNat_append, ← Nat.shiftLeft_add_eq_or_of_lt b.isLt, Nat.shiftLeft_eq]

/-- The value of the big-endian word (41_padding_endianness.md R114). -/
theorem be32_toNat (b0 b1 b2 b3 : Byte) :
    (be32 b0 b1 b2 b3).toNat = b0.toNat * 2 ^ 24 + b1.toNat * 2 ^ 16 + b2.toNat * 2 ^ 8 + b3.toNat := by
  rw [be32, BitVec.toNat_cast, toNat_append_byte, toNat_append_byte, toNat_append_byte]
  omega

/-- Settles O46: the adapter undoes the byte order of the lane, and the word's value is that of its bytes appended. -/
theorem adapterGivesTheBigEndianWord : Obligations.AdapterGivesTheBigEndianWord :=
  fun b0 b1 b2 b3 le => ⟨adapt_packHost b0 b1 b2 b3 le, be32_toNat b0 b1 b2 b3⟩

/-- The big-endian word of the low four bytes of a number is its low 32 bits (41_padding_endianness.md R114). -/
theorem be32_of_number (n : Nat) :
    be32 (BitVec.ofNat 8 (n >>> 24)) (BitVec.ofNat 8 (n >>> 16)) (BitVec.ofNat 8 (n >>> 8)) (BitVec.ofNat 8 n) =
      BitVec.ofNat 32 n := by
  apply BitVec.eq_of_toNat_eq
  simp only [be32_toNat, BitVec.toNat_ofNat, Nat.shiftRight_eq_div_pow]
  omega

/-- The last eight bytes of the padded message are the length field (41_padding_endianness.md R111). -/
theorem paddedByte_lengthByte (m : List Byte) {i : Nat} (hi : i < 8) :
    paddedByte m (paddedLen m.length - 8 + i) = lengthByte m.length i := by
  obtain ⟨-, hroom, -⟩ := paddedLen_bounds m.length
  have hbyte := padByte_eq_paddedByte (m := m) (fun _ h => List.getElem?_eq_getElem h)
    (j := paddedLen m.length - 8 + i) (by omega)
  rw [padByte, if_neg (by omega), if_neg (by omega), if_neg (by omega), Nat.add_sub_cancel_left] at hbyte
  exact (Option.some.inj hbyte).symm

/-- Words 14 and 15 of the last block are the two halves of the length field (41_padding_endianness.md R119). -/
theorem blockWord_lengthField (m : List Byte) {k : Nat} (hk : k < 2) :
    blockWord m (nblk m.length - 1) (14 + k) = BitVec.ofNat 32 ((8 * m.length) >>> (32 * (1 - k))) := by
  have hindex : 64 * (nblk m.length - 1) + 4 * (14 + k) = paddedLen m.length - 8 + 4 * k := by
    unfold paddedLen nblk
    omega
  rw [← be32_of_number, blockWord, hindex, Nat.add_assoc, Nat.add_assoc, Nat.add_assoc,
    paddedByte_lengthByte m (by omega), paddedByte_lengthByte m (by omega), paddedByte_lengthByte m (by omega),
    paddedByte_lengthByte m (by omega)]
  simp only [lengthByte, ← Nat.shiftRight_add]
  match k, hk with
  | 0, _ | 1, _ => rfl

/-- Settles O47: the two halves of the 64-bit bit length, which a message of fewer than `2 ^ 61` bytes does not exceed. -/
theorem lastTwoWordsAreTheBitLength : Obligations.LastTwoWordsAreTheBitLength := by
  intro m hm
  have hhigh := blockWord_lengthField m (k := 0) (by decide)
  have hlow := blockWord_lengthField m (k := 1) (by decide)
  rw [hhigh, hlow, BitVec.toNat_ofNat, BitVec.toNat_ofNat, Nat.shiftRight_eq_div_pow]
  exact ⟨Nat.mod_eq_of_lt (by omega), rfl⟩

end Sys2Proof.Machine
end

section
/-! The schedule's entries and the ends of the rolling window over them (42_schedule.md R130 to R135). -/

namespace Sys2Proof.Machine

/-- Settles O48: the block's words come first, and every later entry was appended by the recurrence. -/
theorem scheduleFollowsItsRecurrence : Obligations.ScheduleFollowsItsRecurrence :=
  fun M => ⟨scheduleTo_length M 64, fun _ h => schedEntry_of_lt M h, fun _ h16 h80 =>
    (schedEntry_recurrence M h16 h80).trans (rotl32_eq _ 1)⟩

theorem slotRead_of_lt (W : Vector Word 16) {i : Nat} (h : i < 16) : slotRead W i = W[i] := by
  simp only [slotRead, Nat.mod_eq_of_lt h]

/-- The block itself is the window of round 0 (42_schedule.md R133). -/
theorem rollingWindow_block (M : Vector Word 16) : RollingWindow M (schedEntry M) 0 := by
  intro i _ hi
  have hi' : i < 16 := hi
  rw [slotRead_of_lt M hi', schedEntry_of_lt M hi']

/-- After the last round slot `i` holds entry `64 + i`, which is at home in slot `i` (42_schedule.md R135). -/
theorem RollingWindow.slotRead_last {W : Vector Word 16} {w : Nat → Word} (h : RollingWindow W w 80) {i : Nat}
    (hi : i < 16) : slotRead W i = w (64 + i) := by
  have hslot : (64 + i) % 16 = i := by omega
  calc slotRead W i
      = slotRead W ((64 + i) % 16) := by rw [hslot]
    _ = slotRead W (64 + i) := slotRead_mod W _
    _ = w (64 + i) := h _ (by omega) (by omega)

/-- Settles O49: the window holds before round 0, each `SchedStep` moves it one entry on, and its end is read slot by slot. -/
theorem rollingBufferHoldsTheWindow : Obligations.RollingBufferHoldsTheWindow :=
  fun M => ⟨rollingWindow_block M, fun _ _ ht h => ⟨h.schedWord_eq ht, h.schedBuffer_step ht⟩,
    fun _ h _ hi => h.slotRead_last hi⟩

end Sys2Proof.Machine
end

section
/-! SEED, the rounds and FOLD: what each writes, where it goes, and what it leaves unchanged (43_compression.md R140 to
R146). -/

namespace Sys2Proof.Machine

variable {s s' s'' : State}

theorem SameFlags.trans (h : SameFlags s s') (h' : SameFlags s' s'') : SameFlags s s'' := by
  obtain ⟨hB, hD, hE⟩ := h
  obtain ⟨hB', hD', hE'⟩ := h'
  exact ⟨hB'.trans hB, hD'.trans hD, hE'.trans hE⟩

theorem SameMessage.trans (h : SameMessage s s') (h' : SameMessage s' s'') : SameMessage s s'' := fun a =>
  ⟨(h' a).1.trans (h a).1, (h' a).2.trans (h a).2⟩

theorem SameAround.trans (h : SameAround s s') (h' : SameAround s' s'') : SameAround s s'' := by
  obtain ⟨hle, hagenda, hreply, hdraws⟩ := h
  obtain ⟨hle', hagenda', hreply', hdraws'⟩ := h'
  exact ⟨hle'.trans hle, hagenda'.trans hagenda, hreply'.trans hreply, hdraws'.trans hdraws⟩

theorem WithinBlock.refl (s : State) : WithinBlock s s :=
  ⟨rfl, rfl, rfl, rfl, rfl, ⟨rfl, rfl, rfl⟩, rfl, rfl, rfl, rfl⟩

theorem WithinBlock.trans (h : WithinBlock s s') (h' : WithinBlock s' s'') : WithinBlock s s'' where
  H := h'.H.trans h.H
  LEN := h'.LEN.trans h.LEN
  blk := h'.blk.trans h.blk
  MSG := h'.MSG.trans h.MSG
  stale := h'.stale.trans h.stale
  flags := h.flags.trans h'.flags
  around := h.around.trans h'.around

theorem WithinBlock.sameMessage (h : WithinBlock s s') : SameMessage s s' := sameMessage_of_eq h.MSG h.stale

/-- Before round 79 the position goes to the next round (43_compression.md R141). -/
theorem roundInto_position_next (q : Fin 4) (hp : s.phase = .round) (ht : s.t.toNat < 79) :
    (roundInto q s).phase = .round ∧ (roundInto q s).t.toNat = s.t.toNat + 1 := by
  have hne : s.t.toNat ≠ 79 := Nat.ne_of_lt ht
  rw [roundInto_phase, roundInto_t, if_neg hne, if_neg hne]
  exact ⟨hp, t_succ (by omega)⟩

/-- After round 79 the position goes to FOLD and keeps `t` (43_compression.md R141). -/
theorem roundInto_position_last (q : Fin 4) (ht : s.t.toNat = 79) :
    (roundInto q s).phase = .fold ∧ (roundInto q s).t = s.t :=
  ⟨if_pos ht, if_pos ht⟩

theorem roundFrame_roundInto (q : Fin 4) (hp : s.phase = .round) : RoundFrame s (roundInto q s) := by
  have h := withinBlock_roundInto q s
  exact ⟨h.H, h.LEN, h.blk, h.flags, h.sameMessage, h.around, roundInto_position_next q hp, roundInto_position_last q⟩

/-- The buffer's two functions are the two results of `SchedStep(t)` (42_schedule.md R132). -/
theorem schedEffect (W : Vector Word 16) (t : Nat) : SchedEffect W t (schedWord W t) (schedBuffer W t) := by
  refine ⟨fun ht => ⟨if_pos ht, schedBuffer_of_le W ht⟩, fun ht => ?_⟩
  rw [schedBuffer_of_gt W ht]
  refine ⟨?_, slotRead_slotWrite_same .., fun i hi hne => slotRead_slotWrite_other _ _ (by omega)⟩
  rw [schedWord, if_neg (by omega), rotl32_eq]
  rfl

/-- The round step of quarter `q` computes the round of `f_q` and `K_q` (43_compression.md R141). -/
theorem roundEffect_roundInto (q : Fin 4) (s : State) :
    RoundEffect (roundFun q s.wv.b s.wv.c s.wv.d) (roundConst q) s (roundInto q s) := by
  refine ⟨schedWord s.W s.t.toNat, schedEffect s.W s.t.toNat, ?_, rfl, rotl32_eq s.wv.b 30, rfl, rfl⟩
  rw [roundInto_wv, roundWork, roundTemp, rotl32_eq]
  rfl

/-- Where it is enabled, the round step of quarter `q` is a round of `f_q` and `K_q` (43_compression.md R141). -/
theorem roundStep_is_round {q : Fin 4} (hp : s.phase = .round) (hq : quarter s.t.toNat = q.val) :
    ∃ s', roundStep q s = .next s' ∧ RoundFrame s s' ∧
      RoundEffect (roundFun q s.wv.b s.wv.c s.wv.d) (roundConst q) s s' :=
  ⟨roundInto q s, roundStep_next_iff.2 ⟨hp, hq, rfl⟩, roundFrame_roundInto q hp, roundEffect_roundInto q s⟩

/-- The last FOLD ends the run and keeps the counters (43_compression.md R146). -/
theorem foldInto_ends (h : s.blk.toNat + 1 = nblk s.LEN.toNat) :
    (foldInto s).phase = .idle ∧ (foldInto s).BUSY = false ∧ (foldInto s).DONE = true ∧ (foldInto s).ERR = s.ERR ∧
      (foldInto s).blk = s.blk ∧ (foldInto s).t = s.t := by
  rw [foldInto_of_last s (lastBlock_iff.2 h)]
  exact ⟨rfl, rfl, rfl, rfl, rfl, rfl⟩

/-- A FOLD with another block to follow goes to its first slot (43_compression.md R146). -/
theorem foldInto_goes_on (h : s.blk.toNat + 1 ≠ nblk s.LEN.toNat) :
    (foldInto s).phase = .load ∧ (foldInto s).t = 0 ∧ SameFlags s (foldInto s) ∧ (foldInto s).blk = s.blk + 1 := by
  have hmore : lastBlock s = false := Bool.eq_false_iff.2 fun hlast => h (lastBlock_iff.1 hlast)
  rw [foldInto_of_more s hmore]
  exact ⟨rfl, rfl, ⟨rfl, rfl, rfl⟩, rfl⟩

theorem sameMessage_foldInto (s : State) : SameMessage s (foldInto s) :=
  sameMessage_of_eq (foldInto_MSG s) (foldInto_stale s)

theorem sameAround_foldInto (s : State) : SameAround s (foldInto s) :=
  ⟨foldInto_hostLE s, foldInto_agenda s, foldInto_reply s, foldInto_draws s⟩

end Sys2Proof.Machine
end

section
/-! The 98 turns of a block: how many are left before the FOLD, and that so many turns lead there (44_driver_host.md
R171). -/

namespace Sys2Proof.Machine

variable {s s' : State} {m : List Byte}

/-- The turns of the sequencer left before the FOLD of the block: the LOADW steps from slot `t` on, the SEED, the rounds
from `t` on (44_driver_host.md R171). -/
def turnsToFold (s : State) : Nat :=
  match s.phase with
  | .load => 97 - s.t.toNat
  | .seed => 81
  | .round => 80 - s.t.toNat
  | .fold => 0
  | .idle => 0
  | .reserved5 => 0
  | .reserved6 => 0
  | .reserved7 => 0

theorem turnsToFold_of_load (h : s.phase = .load) : turnsToFold s = 97 - s.t.toNat := by simp only [turnsToFold, h]

theorem turnsToFold_of_seed (h : s.phase = .seed) : turnsToFold s = 81 := by simp only [turnsToFold, h]

theorem turnsToFold_of_round (h : s.phase = .round) : turnsToFold s = 80 - s.t.toNat := by simp only [turnsToFold, h]

theorem turnsToFold_of_fold (h : s.phase = .fold) : turnsToFold s = 0 := by simp only [turnsToFold, h]

/-- A LOADW that loads its word is one turn (41_padding_endianness.md R118). -/
theorem turnsToFold_loadInto (x : Word) (hp : s.phase = .load) (ht : s.t.toNat ≤ 15) :
    turnsToFold s = turnsToFold (loadInto x s) + 1 := by
  rw [turnsToFold_of_load hp]
  rcases Nat.eq_or_lt_of_le ht with hlast | hmore
  · rw [turnsToFold_of_seed (loadInto_position_last x hlast).1]
    omega
  · obtain ⟨hp', ht'⟩ := loadInto_position_next x hp hmore
    rw [turnsToFold_of_load hp', ht']
    omega

/-- A round is one turn (43_compression.md R141). -/
theorem turnsToFold_roundInto (q : Fin 4) (hp : s.phase = .round) (ht : s.t.toNat ≤ 79) :
    turnsToFold s = turnsToFold (roundInto q s) + 1 := by
  rw [turnsToFold_of_round hp]
  rcases Nat.eq_or_lt_of_le ht with hlast | hmore
  · rw [turnsToFold_of_fold (roundInto_position_last q hlast).1]
    omega
  · obtain ⟨hp', ht'⟩ := roundInto_position_next q hp hmore
    rw [turnsToFold_of_round hp', ht']
    omega

/-- A block of the message `m` is being processed, whatever `H` held before it: what `OnRun` says without the flags and
the blocks before. -/
structure InBlock (m : List Byte) (s : State) : Prop where
  message  : ReadsMessage s m
  legal    : m.length < lengthBound
  blk_lt   : s.blk.toNat < nblk m.length
  progress : blockProgress m s

/-- Before the first LOADW of a block no slot has to hold a word yet. -/
theorem inBlock_first (hp : s.phase = .load) (ht : s.t = 0) (hl : m.length < lengthBound)
    (hb : s.blk.toNat < nblk m.length) (hm : ReadsMessage s m) : InBlock m s := by
  refine ⟨hm, hl, hb, (blockProgress_of_load hp).2 ?_⟩
  rw [ht]
  exact ⟨Nat.zero_le _, fun _ hi => absurd hi (Nat.not_lt_zero _)⟩

theorem InBlock.of_withinBlock (h : InBlock m s) (hw : WithinBlock s s') (hp : blockProgress m s') : InBlock m s' where
  message := readsMessage_of_same h.message hw.LEN hw.MSG hw.stale
  legal := h.legal
  blk_lt := by rw [hw.blk]; exact h.blk_lt
  progress := hp

/-- Where no turn is left the FOLD is next. -/
theorem InBlock.phase_eq_fold (h : InBlock m s) (h0 : turnsToFold s = 0) : s.phase = .fold := by
  have hprogress := h.progress
  cases hp : s.phase with
  | fold => rfl
  | load =>
    have ht := ((blockProgress_of_load hp).1 hprogress).1
    rw [turnsToFold_of_load hp] at h0
    omega
  | seed =>
    rw [turnsToFold_of_seed hp] at h0
    omega
  | round =>
    have ht := ((blockProgress_of_round hp).1 hprogress).1
    rw [turnsToFold_of_round hp] at h0
    omega
  | idle | reserved5 | reserved6 | reserved7 => simp [blockProgress, hp] at hprogress

/-- Every turn before the FOLD is one of the turns left: the port answers, so no LOADW waits (44_driver_host.md R171). -/
theorem InBlock.turnsToFold_of_turn (h : InBlock m s) (hf : s.phase ≠ .fold) (hs : sequencerTurn s = .next s') :
    turnsToFold s = turnsToFold s' + 1 := by
  have hprogress := h.progress
  cases hp : s.phase with
  | load =>
    rw [sequencerTurn_load hp] at hs
    obtain ⟨-, ht, -, ⟨x, -, rfl⟩ | ⟨hsilent, -⟩⟩ := execLoadw_next hs
    · exact turnsToFold_loadInto x hp ht
    · simp [loadWord_eq_blockWord h.message h.blk_lt ht] at hsilent
  | seed =>
    rw [sequencerTurn_seed hp] at hs
    obtain ⟨-, rfl⟩ := execSeed_next hs
    rw [turnsToFold_of_seed hp, turnsToFold_of_round rfl]
    rfl
  | round =>
    have ht := ((blockProgress_of_round hp).1 hprogress).1
    rw [sequencerTurn_round (q := ⟨_, quarter_lt ht⟩) hp rfl] at hs
    cases hs
    exact turnsToFold_roundInto _ hp ht
  | fold => exact absurd hp hf
  | idle | reserved5 | reserved6 | reserved7 => simp [blockProgress, hp] at hprogress

/-- Up to the FOLD every number of turns keeps the block on its way and counts as so many of the turns left. -/
theorem InBlock.run_within_block (h : InBlock m s) (ha : s.agenda = []) {k : Nat} (hk : k ≤ turnsToFold s) :
    ∃ s' : State, Host.Core.run core k s = .next s' ∧ InBlock m s' ∧ WithinBlock s s' ∧
      turnsToFold s = turnsToFold s' + k := by
  induction k generalizing s with
  | zero => exact ⟨s, rfl, h, .refl s, rfl⟩
  | succ k ih =>
    have hf : s.phase ≠ .fold := fun hp => by
      rw [turnsToFold_of_fold hp] at hk
      omega
    obtain ⟨s₁, hturn, hp₁, hw₁⟩ := sequencerTurn_within_block h.message h.legal h.blk_lt h.progress hf
    have hcount := h.turnsToFold_of_turn hf hturn
    have ha₁ : s₁.agenda = [] := hw₁.around.2.1.trans ha
    obtain ⟨s₂, hrun, h₂, hw₂, hcount₂⟩ := ih (h.of_withinBlock hw₁ hp₁) ha₁ (by omega)
    refine ⟨s₂, ?_, h₂, hw₁.trans hw₂, by omega⟩
    rw [run_succ k ((step_of_nil ha).trans hturn), hrun]

/-- The turns left and the FOLD: the block is folded into `H` from a state that differs from the present one within the
block only (43_compression.md R146, R147). -/
theorem InBlock.run_to_fold (h : InBlock m s) (ha : s.agenda = []) :
    ∃ s' : State, Host.Core.run core (turnsToFold s + 1) s = .next (foldInto s') ∧ WithinBlock s s' ∧
      foldH s'.H s'.wv = compress s.H (block m s.blk.toNat) := by
  obtain ⟨s', hrun, h', hw, hcount⟩ := h.run_within_block ha le_rfl
  have hfold : s'.phase = .fold := h'.phase_eq_fold (by omega)
  have hstep : step s' = .next (foldInto s') := by
    rw [step_of_nil (hw.around.2.1.trans ha), sequencerTurn_fold hfold, execFold, if_pos hfold]
  refine ⟨s', (run_add _ 1 hrun).trans (run_one hstep), hw, ?_⟩
  rw [foldH_of_progress hfold h'.progress, hw.H, hw.blk]

end Sys2Proof.Machine
end

section
/-! The statements about the block function, the rounds, SEED and FOLD (43_compression.md R140 to R148). -/

namespace Sys2Proof.Machine

/-- Settles O52: at the first slot of a block 97 turns are left before its FOLD, which adds what the rounds computed. -/
theorem blockOfStepsIsCompress : Obligations.BlockOfStepsIsCompress := by
  intro s m ha hp ht hl hb hm
  have hturns : turnsToFold s + 1 = 98 := by rw [turnsToFold_of_load hp, ht]; rfl
  obtain ⟨s₁, hrun, hw, hH⟩ := (inBlock_first hp ht hl hb hm).run_to_fold ha
  rw [hturns] at hrun
  have hL : s₁.LEN.toNat = m.length := by rw [hw.LEN, hm.1]
  have hwhere : s₁.blk.toNat + 1 = nblk s₁.LEN.toNat ↔ s.blk.toNat + 1 = nblk m.length := by rw [hw.blk, hL]
  refine ⟨foldInto s₁, hrun, (foldInto_H s₁).trans hH, fun hmore => ?_, fun hlast => ?_,
    (foldInto_LEN s₁).trans hw.LEN, hw.sameMessage.trans (sameMessage_foldInto s₁),
    hw.around.trans (sameAround_foldInto s₁)⟩
  · obtain ⟨hphase, ht', hflags, hblk⟩ := foldInto_goes_on (mt hwhere.1 hmore.ne)
    exact ⟨hphase, by rw [hblk, hw.blk, blk_succ hl hb], ht', hw.flags.trans hflags⟩
  · obtain ⟨hphase, hB, hD, hE, -⟩ := foldInto_ends (hwhere.2 hlast)
    exact ⟨hphase, hB, hD, hE.trans hw.flags.2.2⟩

/-- Settles O34: the round of quarter 0, whose function is the choice in its textbook form. -/
theorem rnd0IsARoundOfTheFirstQuarter : Obligations.Rnd0IsARoundOfTheFirstQuarter := by
  refine ⟨rfl, fun s hp ht => ?_⟩
  rw [← f0_eq_textbook]
  exact roundStep_is_round (q := 0) hp (Nat.div_eq_of_lt (by omega))

/-- Settles O35: the round of quarter 1. -/
theorem rnd1IsARoundOfTheSecondQuarter : Obligations.Rnd1IsARoundOfTheSecondQuarter :=
  ⟨rfl, fun _ hp hlo hhi => roundStep_is_round (q := 1) hp (Nat.div_eq_of_lt_le hlo (by omega))⟩

/-- Settles O36: the round of quarter 2, whose function is the majority in its textbook form. -/
theorem rnd2IsARoundOfTheThirdQuarter : Obligations.Rnd2IsARoundOfTheThirdQuarter := by
  refine ⟨rfl, fun s hp hlo hhi => ?_⟩
  rw [← f2_eq_textbook]
  exact roundStep_is_round (q := 2) hp (Nat.div_eq_of_lt_le hlo (by omega))

/-- Settles O37: the round of quarter 3. -/
theorem rnd3IsARoundOfTheFourthQuarter : Obligations.Rnd3IsARoundOfTheFourthQuarter :=
  ⟨rfl, fun _ hp hlo hhi => roundStep_is_round (q := 3) hp (Nat.div_eq_of_lt_le hlo (by omega))⟩

/-- Settles O38: FOLD's sums, and its two ways on. -/
theorem foldAddsAndGoesOn : Obligations.FoldAddsAndGoesOn := by
  refine ⟨rfl, fun s hp => ⟨foldInto s, if_pos hp, ?_⟩⟩
  rw [foldInto_H]
  refine ⟨rfl, rfl, rfl, rfl, rfl, foldInto_ends, fun hmore => ?_, foldInto_wv s, foldInto_W s, foldInto_LEN s,
    sameMessage_foldInto s, sameAround_foldInto s⟩
  obtain ⟨hphase, ht, hflags, hblk⟩ := foldInto_goes_on hmore
  refine ⟨hphase, ht, hflags, fun hroom => ?_⟩
  rw [hblk, BitVec.toNat_add_of_lt hroom]
  rfl

/-- Settles O33: SEED writes `a..e`, `t` and the phase only. -/
theorem seedCopiesTheState : Obligations.SeedCopiesTheState := by
  refine ⟨rfl, fun s hp => ⟨_, if_pos hp, ?_⟩⟩
  have h := withinBlock_seed s
  exact ⟨rfl, rfl, rfl, rfl, rfl, rfl, rfl, h.H, rfl, h.LEN, h.blk, h.flags, h.sameMessage, h.around⟩

/-- Settles O50: each round moves the variables up by one, so round `t` goes back four rounds. -/
theorem workingVariablesAreTheLastFiveValuesOfA : Obligations.WorkingVariablesAreTheLastFiveValuesOfA := by
  intro w v t ht
  obtain ⟨k, rfl⟩ := Nat.exists_eq_add_of_le' ht
  exact ⟨rfl, rotl32_eq _ 30, rotl32_eq _ 30, rotl32_eq _ 30⟩

end Sys2Proof.Machine
end

section
/-! The host transactions one by one: the answer of each where the host's procedure meets it (44_driver_host.md R161 to
R166). -/

namespace Sys2Proof.Machine

variable {s s' : State} {m : List Byte}

theorem execStart_accepted (hb : busy s = false) (hL : s.LEN.toNat < lengthBound) :
    execStart s = .next (beginRun s) := by
  rw [execStart, if_neg (Bool.not_eq_true _ ▸ hb), if_neg (Nat.not_le.2 hL)]

theorem execStart_refused (hb : busy s = false) (hL : lengthBound ≤ s.LEN.toNat) :
    execStart s = .next (raiseInputTooLarge s) := by
  rw [execStart, if_neg (Bool.not_eq_true _ ▸ hb), if_pos hL]

theorem writeLenLow_of_not_busy (v : Word) (hb : busy s = false) :
    writeLenLow v s = { s with LEN := (lenHigh s.LEN ++ v).cast (by decide) } := by
  rw [writeLenLow, if_neg (Bool.not_eq_true _ ▸ hb)]

theorem writeLenHigh_of_not_busy (v : Word) (hb : busy s = false) :
    writeLenHigh v s = { s with LEN := (v ++ lenLow s.LEN).cast (by decide) } := by
  rw [writeLenHigh, if_neg (Bool.not_eq_true _ ▸ hb)]

/-- A read changes what was last returned to the host and the count of free draws only (44_driver_host.md R166). -/
theorem sameCore_reply (s : State) (x : Option Word) (n : Nat) : SameCore s { s with reply := x, draws := n } :=
  ⟨rfl, rfl, rfl, rfl, ⟨rfl, rfl, rfl⟩, ⟨rfl, rfl, rfl⟩, sameMessage_of_eq rfl rfl⟩

/-- A START with the message in place is the first position of its run (44_driver_host.md R161, R170). -/
theorem onRun_beginRun (hl : m.length < lengthBound) (hm : HasMessage s m) : OnRun m (beginRun s) where
  message := ⟨hm.1, fun j hj => (msgRead_of_no_stale j rfl).trans (hm.2 j hj)⟩
  legal := hl
  flags := ⟨rfl, rfl, rfl⟩
  block := Nat.succ_pos _
  blocks := rfl
  progress := (blockProgress_of_load rfl).2 ⟨Nat.zero_le _, fun _ hi => absurd hi (Nat.not_lt_zero _)⟩

/-- Settles O53: the accepted START writes the whole position of the run, and no earlier race is left. -/
theorem startEntersTheRun : Obligations.StartEntersTheRun := fun _ _ hb hl hm =>
  ⟨_, execStart_accepted hb (by rwa [hm.1]), onRun_beginRun hl hm⟩

/-- Settles O22: an accepted START writes the flags, `H` and the position, and nothing else. -/
theorem acceptedStartBeginsARun : Obligations.AcceptedStartBeginsARun := fun s hb hL =>
  ⟨beginRun s, execStart_accepted hb hL, rfl, rfl, rfl, rfl, rfl, rfl, rfl, rfl, rfl, rfl, rfl, rfl, rfl, rfl,
    fun _ => rfl, rfl, rfl, rfl, rfl⟩

/-- Settles O24: of the writers of `BUSY` only the last FOLD and the reset clear it. -/
theorem startWhileBusyIsIgnored : Obligations.StartWhileBusyIsIgnored := by
  refine ⟨fun s hB => execStart_of_busy (busy_of_flag hB), fun s s' hB h hB' => ?_⟩
  by_cases hr : nextEvent s = .reset
  · exact .inl hr
  · rcases (flagsChangeOnlyByTheirWriters s s' h hr).1 (by simp [hB, hB']) with ⟨hset, -⟩ | ⟨-, hlast⟩
    · simp [hB'] at hset
    · exact .inr hlast

/-- Writing the length alone leaves the rest of the core and what stands around it. -/
theorem with_LEN_frame {x : BitVec 64} (h : s' = { s with LEN := x }) :
    s'.H = s.H ∧ s'.wv = s.wv ∧ s'.W = s.W ∧ SamePosition s s' ∧ SameFlags s s' ∧ SameMessage s s' ∧
      SameAround s s' := by
  subst h
  exact ⟨rfl, rfl, rfl, ⟨rfl, rfl, rfl⟩, ⟨rfl, rfl, rfl⟩, sameMessage_of_eq rfl rfl, rfl, rfl, rfl, rfl⟩

/-- Settles O26: a half of the length is written by its own register, and the other half is copied. -/
theorem lengthHalvesAreWritten : Obligations.LengthHalvesAreWritten := by
  refine fun s v => ⟨decodeHost_lenLo v, decodeHost_lenHi v, fun hb => ?_, fun hb => ?_, fun hB => ⟨?_, ?_⟩⟩
  · refine ⟨writeLenLow v s, rfl, ?_, with_LEN_frame (writeLenLow_of_not_busy v hb)⟩
    rw [writeLenLow_of_not_busy v hb, halves_toNat, lenHigh_toNat]
  · refine ⟨writeLenHigh v s, rfl, ?_, with_LEN_frame (writeLenHigh_of_not_busy v hb)⟩
    rw [writeLenHigh_of_not_busy v hb, halves_toNat, lenLow_toNat]
  · exact congrArg _ (writeLenLow_of_busy v (busy_of_flag hB))
  · exact congrArg _ (writeLenHigh_of_busy v (busy_of_flag hB))

/-- Settles O27: the read returns what the register holds, and touches only the model's own fields. -/
theorem registerReadsReturnTheirContent : Obligations.RegisterReadsReturnTheirContent := by
  refine ⟨decodeHost_read, fun s r => ⟨_, rfl, sameCore_reply s _ _, rfl, rfl, regRead s r, rfl, ?_⟩⟩
  cases r with
  | ctrl | reserved => rfl
  | status =>
    intro hp
    rw [regRead, statusWord_toNat, busy_of_namedPhase hp]
  | lenLo => exact lenLow_toNat s.LEN
  | lenHi => exact lenHigh_toNat s.LEN
  | digest i => exact fun hD => if_pos hD

/-- Settles O25: a write of `CTRL` is a START by bit 0 alone. -/
theorem nopChangesNothing : Obligations.NopChangesNothing := by
  refine ⟨fun s => rfl, fun s v rest hv h => ?_⟩
  have hnop : decodeHost (makeRecord true 0 v) = .instr .nop := by
    rw [decodeHost_ctrl, hv, if_neg Bool.false_ne_true]
  exact (stepRunsTheDecodedTransaction s _ rest h).1 _ hnop

end Sys2Proof.Machine
end

section
/-! A run turn by turn: how many turns it still takes, whatever the host has on the agenda after them (44_driver_host.md
R169 to R171). -/

namespace Sys2Proof.Machine

variable {s s' : State} {m : List Byte} {k : Nat} {rest : List Event}

theorem sequencerTurn_agenda (h : sequencerTurn s = .next s') : s'.agenda = s.agenda := by
  rcases sequencerTurn_next h with rfl | ⟨-, -, -, x, -, rfl⟩ | ⟨-, rfl⟩ | ⟨-, q, -, rfl⟩ | ⟨-, rfl⟩
  case inr.inr.inr.inr => exact foldInto_agenda s
  all_goals rfl

/-- The next `k` events are turns of the sequencer, and `rest` comes after them: listed in the agenda, or the turns that
an empty agenda stands for (log entry 2). -/
def TurnsThen (k : Nat) (rest agenda : List Event) : Prop :=
  agenda = List.replicate k .core ++ rest ∨ (agenda = [] ∧ rest = [])

theorem turnsThen_nil (k : Nat) : TurnsThen k [] [] := .inr ⟨rfl, rfl⟩

theorem turnsThen_replicate (k : Nat) (rest : List Event) : TurnsThen k rest (List.replicate k .core ++ rest) :=
  .inl rfl

theorem TurnsThen.agenda_eq {agenda : List Event} (h : TurnsThen 0 rest agenda) : agenda = rest := by
  rcases h with rfl | ⟨rfl, rfl⟩ <;> rfl

/-- The first of the turns is the next step. -/
theorem TurnsThen.step_eq (h : TurnsThen (k + 1) rest s.agenda) :
    ∃ agenda, TurnsThen k rest agenda ∧ step s = sequencerTurn { s with agenda := agenda } := by
  rcases h with h | ⟨h, rfl⟩
  · exact ⟨_, turnsThen_replicate k rest, step_of_turn (.inl h)⟩
  · exact ⟨[], turnsThen_nil k, step_of_turn (.inr ⟨h, rfl⟩)⟩

/-- The turns left in the run on `m`: to the FOLD of this block, that FOLD, and 98 for each block after it
(44_driver_host.md R171). -/
def turnsLeft (m : List Byte) (s : State) : Nat :=
  turnsToFold s + 1 + 98 * (nblk m.length - (s.blk.toNat + 1))

theorem turnsLeft_pos (m : List Byte) (s : State) : 0 < turnsLeft m s := by
  unfold turnsLeft
  omega

/-- A run takes 98 turns for each of its blocks (44_driver_host.md R170). -/
theorem turnsLeft_beginRun (m : List Byte) (s : State) : turnsLeft m (beginRun s) = 98 * nblk m.length := by
  have hturns : turnsToFold (beginRun s) = 97 := turnsToFold_of_load rfl
  have hblk : (beginRun s).blk.toNat = 0 := rfl
  have hblocks : 0 < nblk m.length := Nat.succ_pos _
  rw [turnsLeft, hturns, hblk]
  omega

theorem OnRun.inBlock (h : OnRun m s) : InBlock m s := ⟨h.message, h.legal, h.block, h.progress⟩

/-- A FOLD that is not the last leaves the 98 turns of each block to come; the last was the one turn left. -/
theorem OnRun.turnsLeft_of_fold (h : OnRun m s) (hp : s.phase = .fold) :
    (OnRun m (foldInto s) ∧ turnsLeft m s = turnsLeft m (foldInto s) + 1) ∨
      (HoldsDigest m (foldInto s) ∧ turnsLeft m s = 1) := by
  have hblock := h.block
  have hL := h.message.1
  by_cases hlast : s.blk.toNat + 1 = nblk s.LEN.toNat
  · obtain ⟨-, hB, -⟩ := foldInto_ends hlast
    refine .inr ⟨(h.foldInto_keeps_or_ends hp).resolve_left fun hrun => ?_, ?_⟩
    · exact Bool.false_ne_true (hB.symm.trans hrun.flags.1)
    · rw [turnsLeft, turnsToFold_of_fold hp, ← hL]
      omega
  · obtain ⟨hload, ht, -, hblk⟩ := foldInto_goes_on hlast
    refine .inl ⟨(h.foldInto_keeps_or_ends hp).resolve_right fun hend => ?_, ?_⟩
    · exact absurd (hload.symm.trans hend.idle) (by decide)
    · have hnext : (foldInto s).blk.toNat = s.blk.toNat + 1 := by rw [hblk, blk_succ h.legal hblock]
      rw [hL] at hlast
      rw [turnsLeft, turnsLeft, turnsToFold_of_fold hp, turnsToFold_of_load hload, ht, hnext]
      have h0 : (0 : BitVec 7).toNat = 0 := rfl
      omega

/-- Every turn of a run is one of the turns left, and after the last the digest is there (44_driver_host.md R171). -/
theorem OnRun.turnsLeft_of_turn (h : OnRun m s) : ∃ s', sequencerTurn s = .next s' ∧
    ((OnRun m s' ∧ turnsLeft m s = turnsLeft m s' + 1) ∨ (HoldsDigest m s' ∧ turnsLeft m s = 1)) := by
  by_cases hp : s.phase = .fold
  · exact ⟨foldInto s, (sequencerTurn_fold hp).trans (if_pos hp), h.turnsLeft_of_fold hp⟩
  · obtain ⟨s', hs, hprogress, hw⟩ := sequencerTurn_within_block h.message h.legal h.block h.progress hp
    have hm := readsMessage_of_same h.message hw.LEN hw.MSG hw.stale
    refine ⟨s', hs, .inl ⟨h.of_progress hm hw.flags hw.blk hw.H hprogress, ?_⟩⟩
    rw [turnsLeft, turnsLeft, h.inBlock.turnsToFold_of_turn hp hs, hw.blk]
    omega

/-- The next step of a run whose next event is the sequencer's turn. -/
theorem OnRun.step_turn (h : OnRun m s) (ha : TurnsThen (k + 1) rest s.agenda) :
    ∃ s', step s = .next s' ∧ TurnsThen k rest s'.agenda ∧ s'.MSG = s.MSG ∧
      ((OnRun m s' ∧ turnsLeft m s = turnsLeft m s' + 1) ∨ (HoldsDigest m s' ∧ turnsLeft m s = 1)) := by
  obtain ⟨agenda, ha', hstep⟩ := ha.step_eq
  have h' : OnRun m { s with agenda := agenda } := h.of_sameCore h.message ⟨rfl, rfl, rfl⟩ ⟨rfl, rfl, rfl⟩ rfl rfl rfl
  obtain ⟨s', hturn, hcount⟩ := h'.turnsLeft_of_turn
  exact ⟨s', hstep.trans hturn, by rwa [sequencerTurn_agenda hturn], (sequencerTurn_MSG hturn :), hcount⟩

/-- For fewer turns than are left the run stays on its way. -/
theorem OnRun.run_turns (h : OnRun m s) (ha : TurnsThen k rest s.agenda) (hk : k < turnsLeft m s) :
    ∃ s' : State, Host.Core.run core k s = .next s' ∧ OnRun m s' := by
  induction k generalizing s with
  | zero => exact ⟨s, rfl, h⟩
  | succ k ih =>
    obtain ⟨s₁, hstep, ha₁, -, ⟨h₁, hcount⟩ | ⟨-, hcount⟩⟩ := h.step_turn ha
    · rw [run_succ k hstep]
      exact ih h₁ ha₁ (by omega)
    · omega

/-- After all the turns left the digest is there, the message is still in place, and the host goes on with the rest of
its agenda. -/
theorem OnRun.run_ends (h : OnRun m s) (ha : TurnsThen (turnsLeft m s) rest s.agenda) :
    ∃ s' : State, Host.Core.run core (turnsLeft m s) s = .next s' ∧ HoldsDigest m s' ∧ s'.MSG = s.MSG ∧
      s'.agenda = rest := by
  generalize hn : turnsLeft m s = n at ha
  induction n generalizing s with
  | zero => exact absurd hn (turnsLeft_pos m s).ne'
  | succ n ih =>
    obtain ⟨s₁, hstep, ha₁, hMSG, ⟨h₁, hcount⟩ | ⟨hend, hcount⟩⟩ := h.step_turn ha
    · rw [run_succ n hstep]
      obtain ⟨s', hrun, hend, hMSG', hrest⟩ := ih h₁ (by omega) ha₁
      exact ⟨s', hrun, hend, hMSG'.trans hMSG, hrest⟩
    · obtain rfl : n = 0 := by omega
      exact ⟨s₁, run_one hstep, hend, hMSG, ha₁.agenda_eq⟩

/-- Settles O55: the run that a START enters has `98 * NBLK` turns left, and each turn is one of them. -/
theorem runEndsWithTheDigest : Obligations.RunEndsWithTheDigest := by
  intro s m hb ha hl hm
  have hrun : OnRun m (beginRun s) := onRun_beginRun hl hm
  have hagenda : (beginRun s).agenda = [] := ha
  refine ⟨beginRun s, execStart_accepted hb (by rwa [hm.1]), fun k hk => ?_, ?_⟩
  · obtain ⟨sk, hsk, hrunk⟩ := hrun.run_turns (hagenda ▸ turnsThen_nil k) (by rwa [turnsLeft_beginRun])
    obtain ⟨hB, hD, -⟩ := hrunk.flags
    exact ⟨sk, hsk, hB, hD⟩
  · obtain ⟨s₁, hs₁, hend, hMSG, -⟩ := hrun.run_ends (hagenda ▸ turnsThen_nil _)
    rw [turnsLeft_beginRun] at hs₁
    exact ⟨s₁, hs₁, hend, fun a => congrArg (Memory.read · a) hMSG⟩

end Sys2Proof.Machine
end

section
/-! The host's procedure as a script: the length, the START, the turns of the sequencer, the read of `STATUS`
(30_encoding.md R81; 44_driver_host.md R170). -/

namespace Sys2Proof.Machine

variable {s s' : State} {m : List Byte} {rest : List Event}

/-- A line of a script runs the operation of its record on the state without it. -/
theorem step_of_line {r : Record} {i : Instr} (h : s.agenda = .txn r :: rest) (hr : decodeHost r = .instr i) :
    step s = exec i { s with agenda := rest } :=
  (stepRunsTheDecodedTransaction s r rest h).1 i hr

theorem decodeHost_scriptStart : decodeHost (makeRecord true (regNumber .ctrl) 1) = .instr .start := by decide

theorem decodeHost_scriptRd_status : decodeHost (makeRecord false (regNumber .status) 0) = .instr (.rdreg .status) := by
  decide

/-- The two halves of `L`, written one after the other, make `L` (44_driver_host.md R164). -/
theorem halves_of_length {L : Nat} (x : BitVec 64) (hL : L < 2 ^ 64) :
    ((BitVec.ofNat 32 (L / 2 ^ 32) ++
      lenLow ((lenHigh x ++ BitVec.ofNat 32 (L % 2 ^ 32)).cast (by decide))).cast (by decide) : BitVec 64) =
      BitVec.ofNat 64 L := by
  apply BitVec.eq_of_toNat_eq
  rw [halves_toNat, lenLow_toNat, halves_toNat, BitVec.toNat_ofNat, BitVec.toNat_ofNat, BitVec.toNat_ofNat]
  omega

/-- The state after `WRLEN L`, the first two lines of the procedure, with `rest` still to come. -/
def lengthWritten (L : Nat) (rest : List Event) (s : State) : State :=
  { s with LEN := BitVec.ofNat 64 L, agenda := rest }

theorem lengthWritten_LEN_toNat {L : Nat} (rest : List Event) (s : State) (hL : L < 2 ^ 64) :
    (lengthWritten L rest s).LEN.toNat = L :=
  Nat.mod_eq_of_lt hL

/-- The two lines of `WRLEN` while `BUSY = 0` (44_driver_host.md R164). -/
theorem step_of_wrlenlo {v : Word} (hb : busy s = false) (ha : s.agenda = scriptWr .lenLo v :: rest) :
    step s = .next { s with LEN := (lenHigh s.LEN ++ v).cast (by decide), agenda := rest } :=
  (step_of_line ha (decodeHost_lenLo v)).trans
    (congrArg _ (writeLenLow_of_not_busy (s := { s with agenda := rest }) v hb))

theorem step_of_wrlenhi {v : Word} (hb : busy s = false) (ha : s.agenda = scriptWr .lenHi v :: rest) :
    step s = .next { s with LEN := (v ++ lenLow s.LEN).cast (by decide), agenda := rest } :=
  (step_of_line ha (decodeHost_lenHi v)).trans
    (congrArg _ (writeLenHigh_of_not_busy (s := { s with agenda := rest }) v hb))

/-- `WRLEN L` while `BUSY = 0` writes `L` to the length and nothing else (30_encoding.md R81). -/
theorem run_scriptWrlen {L : Nat} (hb : busy s = false) (hL : L < 2 ^ 64) (ha : s.agenda = scriptWrlen L ++ rest) :
    Host.Core.run core 2 s = .next (lengthWritten L rest s) := by
  rw [run_succ 1 (step_of_wrlenlo hb ha)]
  refine (run_one (step_of_wrlenhi ?_ rfl)).trans ?_
  · exact hb
  · rw [halves_of_length _ hL]
    rfl

/-- `WRLEN L` and `START` (30_encoding.md R81). -/
theorem run_scriptWrlen_scriptStart {L : Nat} (hb : busy s = false) (hL : L < 2 ^ 64)
    (ha : s.agenda = scriptWrlen L ++ scriptStart :: rest) (hs : execStart (lengthWritten L rest s) = .next s') :
    Host.Core.run core 3 s = .next s' := by
  have hstart : step (lengthWritten L (scriptStart :: rest) s) = .next s' :=
    (step_of_line rfl decodeHost_scriptStart).trans hs
  exact (run_add 2 1 (run_scriptWrlen hb hL ha)).trans (run_one hstart)

/-- The procedure with one read of `STATUS` after `gap` turns (30_encoding.md R81). -/
theorem scriptSha1_one (L gap : Nat) : scriptSha1 L gap 1 =
    scriptWrlen L ++ scriptStart :: (List.replicate gap .core ++ [scriptRd .status]) := by
  simp [scriptSha1, scriptPoll]

/-- Where the run has ended `STATUS` reads 2 (10_state.md R29, R32). -/
theorem HoldsDigest.statusWord_eq (h : HoldsDigest m s) : statusWord s = 2 := by
  obtain ⟨hB, hD, hE⟩ := h.flags
  have hbusy : busy s = false := busy_eq_false_iff.2 ⟨hB, by rw [h.idle]; rfl⟩
  apply BitVec.eq_of_toNat_eq
  rw [statusWord_toNat, hE, hD, hbusy]
  rfl

/-- A refused START leaves a `STATUS` that reads 4 (60_exceptions.md R183; 10_state.md R32). -/
theorem statusWord_raiseInputTooLarge (hb : busy s = false) : statusWord (raiseInputTooLarge s) = 4 := by
  apply BitVec.eq_of_toNat_eq
  rw [statusWord_toNat, busy_raiseInputTooLarge, hb]
  rfl

/-- The last line of `POLL` reads `STATUS` and changes nothing of the core (30_encoding.md R81). -/
theorem step_scriptRd_status (ha : s.agenda = scriptRd .status :: rest) :
    step s = .next { s with agenda := rest, reply := some (statusWord s) } :=
  step_of_line ha decodeHost_scriptRd_status

/-- Settles O56: the length is written, the START enters the run on the message or is refused, and `STATUS` tells
which. -/
theorem hostProcedureComputesSha1 : Obligations.HostProcedureComputesSha1 := by
  refine ⟨fun s m hb hl hm ha => ?_, fun s L hB hp hlo hhi ha => ?_⟩
  · rw [scriptSha1_one] at ha
    have hlen := fun rest => lengthWritten_LEN_toNat (L := m.length) rest s (by omega)
    have hstart := run_scriptWrlen_scriptStart hb (by omega) ha (execStart_accepted hb (by rwa [hlen]))
    have hrun := onRun_beginRun hl ⟨hlen (List.replicate (98 * nblk m.length) .core ++ [scriptRd .status]), hm⟩
    obtain ⟨s₁, hturns, hend, -, hrest⟩ := hrun.run_ends (by rw [turnsLeft_beginRun]; exact turnsThen_replicate ..)
    rw [turnsLeft_beginRun] at hturns
    have hcount : 98 * nblk m.length + 4 = 3 + (98 * nblk m.length + 1) := by omega
    refine ⟨{ s₁ with agenda := [], reply := some (statusWord s₁) }, ?_, congrArg some hend.statusWord_eq,
      ⟨hend.flags, hend.idle, hend.digest⟩, congrArg digestBytes hend.digest⟩
    rw [hcount, run_add 3 _ hstart, run_add _ 1 hturns, run_one (step_scriptRd_status hrest)]
  · rw [scriptSha1_one] at ha
    have hb : busy s = false := busy_eq_false_iff.2 ⟨hB, by rw [hp]; rfl⟩
    have hlen := fun rest => lengthWritten_LEN_toNat rest s hhi
    have hstart := run_scriptWrlen_scriptStart hb hhi ha (execStart_refused hb (by rwa [hlen]))
    refine ⟨_, (run_add 3 1 hstart).trans (run_one (step_scriptRd_status rfl)), ?_, hp, rfl⟩
    exact congrArg some (statusWord_raiseInputTooLarge hb)

end Sys2Proof.Machine
end

section
/-! A digest after its run: what keeps it, and that it reads back (44_driver_host.md R166, R173; 70_reset_and_hazards.md
R205). -/

namespace Sys2Proof.Machine

variable {s s' : State} {m : List Byte}

/-- A digest is about the flags, the phase and `H`. -/
theorem HoldsDigest.of_keepsCore (h : HoldsDigest m s) (hk : KeepsCore s s') : HoldsDigest m s' := by
  obtain ⟨hp, -, -⟩ := hk.position
  obtain ⟨hB, hD, hE⟩ := hk.flags
  exact {
    flags := by rw [hB, hD, hE]; exact h.flags
    idle := hp.trans h.idle
    digest := hk.H.trans h.digest }

/-- In `IDLE` a step always answers next. -/
theorem step_answers_of_idle (hp : s.phase = .idle) : ∃ s', step s = .next s' := by
  unfold step
  cases nextEvent s with
  | txn r => exact runRecord_answers r _
  | reset => exact ⟨_, rfl⟩
  | place a v => exact ⟨_, rfl⟩
  | core => exact ⟨_, sequencerTurn_idle hp⟩

/-- A START discards the digest (10_state.md R25). -/
theorem discards_of_startNext (h : startNext s) : discards (nextEvent s) = true := by
  obtain ⟨r, he, hr⟩ := h
  rw [he]
  exact decide_eq_true hr

/-- Settles O57: of the effects of a step only a START's and a reset's touch the flags, the phase or `H` in `IDLE`. -/
theorem digestStaysReadable : Obligations.DigestStaysReadable := by
  intro s m h
  refine ⟨fun hd => ?_, fun i => ⟨_, rfl, ?_, sameCore_reply s _ _⟩⟩
  · obtain ⟨s', hstep⟩ := step_answers_of_idle h.idle
    have hfetched : HoldsDigest m (afterFetch s) := ⟨h.flags, h.idle, h.digest⟩
    refine ⟨s', hstep, ?_⟩
    cases stepEffect_of_step hstep with
    | reset he => rw [he] at hd; cases hd
    | refusedStart he | acceptedStart he => rw [discards_of_startNext he] at hd; cases hd
    | turn _ hturn =>
      rw [sequencerTurn_idle hfetched.idle] at hturn
      cases hturn
      exact hfetched
    | kept hk => exact hfetched.of_keepsCore hk
  · obtain ⟨-, hD, -⟩ := h.flags
    rw [regRead, if_pos hD, h.digest]

end Sys2Proof.Machine
end

section
/-! Two runs side by side: turn by turn they agree in everything that a later turn depends on, and what they may differ in
is written before it is read (44_driver_host.md R172; 70_reset_and_hazards.md R203). -/

namespace Sys2Proof.Machine

variable {s s' s₁ s₁' : State}

/-- Where two datapaths agree, by the phase: the slots loaded so far in LOAD, the buffer in SEED, the working variables too
in ROUND, those alone in FOLD. -/
def SameProgress (s s' : State) : Prop :=
  match s.phase with
  | .load => ∀ i < s.t.toNat, slotRead s'.W i = slotRead s.W i
  | .seed => s'.W = s.W
  | .round => s'.W = s.W ∧ s'.wv = s.wv
  | .fold => s'.wv = s.wv
  | .idle => True
  | .reserved5 => True
  | .reserved6 => True
  | .reserved7 => True

theorem sameProgress_of_idle (h : s.phase = .idle) : SameProgress s s' := by simp only [SameProgress, h]

theorem sameProgress_of_load (h : s.phase = .load) :
    SameProgress s s' ↔ ∀ i < s.t.toNat, slotRead s'.W i = slotRead s.W i := by simp only [SameProgress, h]

theorem sameProgress_of_seed (h : s.phase = .seed) : SameProgress s s' ↔ s'.W = s.W := by simp only [SameProgress, h]

theorem sameProgress_of_round (h : s.phase = .round) : SameProgress s s' ↔ s'.W = s.W ∧ s'.wv = s.wv := by
  simp only [SameProgress, h]

theorem sameProgress_of_fold (h : s.phase = .fold) : SameProgress s s' ↔ s'.wv = s.wv := by simp only [SameProgress, h]

/-- Two runs of one length on one message space, at one position, with one `H` and the same flags. What else they hold
may differ but for what the datapath has written in this block. -/
structure Twins (s s' : State) : Prop where
  LEN      : s'.LEN = s.LEN
  MSG      : s'.MSG = s.MSG
  stale    : s'.stale = s.stale
  H        : s'.H = s.H
  position : SamePosition s s'
  flags    : SameFlags s s'
  legal    : s.LEN.toNat < lengthBound
  blk_lt   : s.blk.toNat < nblk s.LEN.toNat
  inRange  : positionOk s = true
  progress : SameProgress s s'

theorem twins_beginRun (hL : s.LEN.toNat < lengthBound) (hLEN : s'.LEN = s.LEN) (hMSG : s'.MSG = s.MSG) :
    Twins (beginRun s) (beginRun s') where
  LEN := hLEN
  MSG := hMSG
  stale := rfl
  H := rfl
  position := ⟨rfl, rfl, rfl⟩
  flags := ⟨rfl, rfl, rfl⟩
  legal := hL
  blk_lt := Nat.succ_pos _
  inRange := rfl
  progress := (sameProgress_of_load rfl).2 fun _ hi => absurd hi (Nat.not_lt_zero _)

/-- A micro-operation within a block keeps the runs side by side where it leads both to one position in range. -/
theorem Twins.of_withinBlock (h : Twins s s') (hw : WithinBlock s s₁) (hw' : WithinBlock s' s₁')
    (hphase : s₁'.phase = s₁.phase) (ht : s₁'.t = s₁.t) (hok : positionOk s₁ = true) (hp : SameProgress s₁ s₁') :
    Twins s₁ s₁' := by
  obtain ⟨-, hblk, -⟩ := h.position
  obtain ⟨hB, hD, hE⟩ := hw.flags
  obtain ⟨hB', hD', hE'⟩ := h.flags.trans hw'.flags
  exact {
    LEN := by rw [hw'.LEN, hw.LEN, h.LEN]
    MSG := by rw [hw'.MSG, hw.MSG, h.MSG]
    stale := by rw [hw'.stale, hw.stale, h.stale]
    H := by rw [hw'.H, hw.H, h.H]
    position := ⟨hphase, by rw [hw'.blk, hw.blk, hblk], ht⟩
    flags := ⟨hB'.trans hB.symm, hD'.trans hD.symm, hE'.trans hE.symm⟩
    legal := by rw [hw.LEN]; exact h.legal
    blk_lt := by rw [hw.blk, hw.LEN]; exact h.blk_lt
    inRange := hok
    progress := hp }

theorem Twins.wordIndex_eq (h : Twins s s') : wordIndex s' = wordIndex s := by
  obtain ⟨-, hblk, ht⟩ := h.position
  rw [wordIndex, wordIndex, hblk, ht]

theorem Twins.padDefined_eq (h : Twins s s') : padDefined s' = padDefined s := by
  rw [padDefined, padDefined, h.wordIndex_eq, h.LEN]

/-- The word of a LOADW is a function of the length, the position and what the port delivers: the byte order of the host
cancels (41_padding_endianness.md R117). -/
theorem Twins.loadWord_eq (h : Twins s s') : loadWord s' = loadWord s := by
  have hread : msgRead s' = msgRead s := funext fun _ => msgRead_congr (by rw [h.stale]) (by rw [h.MSG])
  have hbyte : statePadByte s' = statePadByte s := funext fun j => by rw [statePadByte, statePadByte, h.LEN, hread]
  unfold loadWord
  simp only [adapt_packHost, h.wordIndex_eq, hbyte]

/-- Buffers that agree below slot `t` agree below slot `t + 1` once the same word is written to slot `t`. -/
theorem slotRead_slotWrite_agree {W W' : Vector Word 16} {t : Nat} (x : Word) (ht : t ≤ 15)
    (h : ∀ i < t, slotRead W' i = slotRead W i) {i : Nat} (hi : i < t + 1) :
    slotRead (slotWrite W' t x) i = slotRead (slotWrite W t x) i := by
  rcases Nat.lt_succ_iff_lt_or_eq.1 hi with hlt | rfl
  · rw [slotRead_slotWrite_other _ _ (by omega), slotRead_slotWrite_other _ _ (by omega), h i hlt]
  · rw [slotRead_slotWrite_same, slotRead_slotWrite_same]

theorem buffer_ext {W W' : Vector Word 16} (h : ∀ i < 16, slotRead W' i = slotRead W i) : W' = W := by
  apply Vector.ext
  intro i hi
  rw [← slotRead_of_lt W' hi, ← slotRead_of_lt W hi, h i hi]

/-- The same word loaded in both runs: one more slot agrees, and after slot 15 the whole buffer does. -/
theorem Twins.loadInto_keeps (h : Twins s s') (x : Word) (hp : s.phase = .load) (ht : s.t.toNat ≤ 15) :
    Twins (loadInto x s) (loadInto x s') := by
  obtain ⟨hphase, -, ht'⟩ := h.position
  have hslots := fun i => slotRead_slotWrite_agree x ht ((sameProgress_of_load hp).1 h.progress) (i := i)
  refine h.of_withinBlock (withinBlock_loadInto x s) (withinBlock_loadInto x s') (by simp [hphase, ht']) (by simp [ht'])
    (positionOk_loadInto x hp ht) ?_
  rcases Nat.eq_or_lt_of_le ht with hlast | hmore
  · refine (sameProgress_of_seed (loadInto_position_last x hlast).1).2 (buffer_ext fun i hi => ?_)
    rw [loadInto_W, loadInto_W, ht']
    exact hslots i (by omega)
  · obtain ⟨hp', hnext⟩ := loadInto_position_next x hp hmore
    refine (sameProgress_of_load hp').2 fun i hi => ?_
    rw [loadInto_W, loadInto_W, ht']
    exact hslots i (by omega)

/-- A LOADW in both runs: the port answers both with the one word, or neither. -/
theorem Twins.execLoadw_keeps (h : Twins s s') (hp : s.phase = .load) (ht : s.t.toNat ≤ 15) :
    ∃ s₁ s₁', execLoadw s = .next s₁ ∧ execLoadw s' = .next s₁' ∧ Twins s₁ s₁' := by
  obtain ⟨hphase, -, ht'⟩ := h.position
  have hp' : s'.phase = .load := hphase.trans hp
  have ht15 : s'.t.toNat ≤ 15 := by rwa [ht']
  have hd : padDefined s = true := padDefined_of_block h.legal h.blk_lt ht
  have hd' : padDefined s' = true := h.padDefined_eq.trans hd
  have hword' := h.loadWord_eq
  cases hword : loadWord s with
  | some x =>
    exact ⟨_, _, execLoadw_loads hp ht hd hword, execLoadw_loads hp' ht15 hd' (hword'.trans hword),
      h.loadInto_keeps x hp ht⟩
  | none =>
    exact ⟨s, s', execLoadw_silent hp ht hd hword, execLoadw_silent hp' ht15 hd' (hword'.trans hword), h⟩

/-- The same round in both runs. -/
theorem Twins.roundInto_keeps (h : Twins s s') {q : Fin 4} (hp : s.phase = .round) (hq : quarter s.t.toNat = q.val)
    (ht : s.t.toNat ≤ 79) : Twins (roundInto q s) (roundInto q s') := by
  obtain ⟨hphase, -, ht'⟩ := h.position
  obtain ⟨hW, hwv⟩ := (sameProgress_of_round hp).1 h.progress
  refine h.of_withinBlock (withinBlock_roundInto q s) (withinBlock_roundInto q s') (by simp [hphase, ht'])
    (by simp [ht']) (positionOk_roundInto hp hq) ?_
  have hwv' : (roundInto q s').wv = (roundInto q s).wv := by rw [roundInto_wv, roundInto_wv, hW, hwv, ht']
  rcases Nat.eq_or_lt_of_le ht with hlast | hmore
  · exact (sameProgress_of_fold (roundInto_position_last q hlast).1).2 hwv'
  · exact (sameProgress_of_round (roundInto_position_next q hp hmore).1).2
      ⟨by rw [roundInto_W, roundInto_W, hW, ht'], hwv'⟩

/-- The FOLD ends both runs, or takes both to the next block. -/
theorem Twins.foldInto_keeps (h : Twins s s') (hp : s.phase = .fold) : Twins (foldInto s) (foldInto s') := by
  obtain ⟨-, hblk, ht⟩ := h.position
  obtain ⟨hB, hD, hE⟩ := h.flags
  have hH : foldH s'.H s'.wv = foldH s.H s.wv := by rw [h.H, (sameProgress_of_fold hp).1 h.progress]
  have hlast' : lastBlock s' = lastBlock s := by rw [lastBlock, lastBlock, hblk, h.LEN]
  have hblock := h.blk_lt
  cases hlast : lastBlock s with
  | true =>
    rw [foldInto_of_last s hlast, foldInto_of_last s' (hlast'.trans hlast)]
    exact {
      LEN := h.LEN, MSG := h.MSG, stale := h.stale, H := hH, position := ⟨rfl, hblk, ht⟩, flags := ⟨rfl, rfl, hE⟩
      legal := h.legal, blk_lt := hblock, inRange := rfl, progress := sameProgress_of_idle rfl }
  | false =>
    have hmore : s.blk.toNat + 1 ≠ nblk s.LEN.toNat := by simp [← lastBlock_iff, hlast]
    rw [foldInto_of_more s hlast, foldInto_of_more s' (hlast'.trans hlast)]
    exact {
      LEN := h.LEN, MSG := h.MSG, stale := h.stale, H := hH, position := ⟨rfl, congrArg (· + 1) hblk, rfl⟩
      flags := ⟨hB, hD, hE⟩, legal := h.legal, inRange := rfl
      blk_lt := by simp only [blk_succ h.legal hblock]; omega
      progress := (sameProgress_of_load rfl).2 fun _ hi => absurd hi (Nat.not_lt_zero _) }

/-- A turn of the sequencer in both runs, phase by phase: no phase reads what the runs may differ in. -/
theorem Twins.sequencerTurn_keeps (h : Twins s s') :
    ∃ s₁ s₁', sequencerTurn s = .next s₁ ∧ sequencerTurn s' = .next s₁' ∧ Twins s₁ s₁' := by
  obtain ⟨hphase, -, ht'⟩ := h.position
  have hok := h.inRange
  cases hp : s.phase with
  | idle => exact ⟨s, s', sequencerTurn_idle hp, sequencerTurn_idle (hphase.trans hp), h⟩
  | load =>
    have ht : s.t.toNat ≤ 15 := by simpa [positionOk, hp] using hok
    rw [sequencerTurn_load hp, sequencerTurn_load (hphase.trans hp)]
    exact h.execLoadw_keeps hp ht
  | seed =>
    have hW := (sameProgress_of_seed hp).1 h.progress
    refine ⟨_, _, (sequencerTurn_seed hp).trans (if_pos hp),
      (sequencerTurn_seed (hphase.trans hp)).trans (if_pos (hphase.trans hp)),
      h.of_withinBlock (withinBlock_seed s) (withinBlock_seed s') rfl rfl rfl ?_⟩
    exact (sameProgress_of_round rfl).2 ⟨hW, congrArg seedWork h.H⟩
  | round =>
    have ht : s.t.toNat ≤ 79 := by simpa [positionOk, hp] using hok
    have hq : quarter s.t.toNat = (⟨_, quarter_lt ht⟩ : Fin 4).val := rfl
    exact ⟨_, _, sequencerTurn_round hp hq, sequencerTurn_round (hphase.trans hp) (by rw [ht']),
      h.roundInto_keeps hp hq ht⟩
  | fold =>
    exact ⟨_, _, (sequencerTurn_fold hp).trans (if_pos hp),
      (sequencerTurn_fold (hphase.trans hp)).trans (if_pos (hphase.trans hp)), h.foldInto_keeps hp⟩
  | reserved5 | reserved6 | reserved7 => simp [positionOk, hp] at hok

/-- Any number of turns in both runs. -/
theorem Twins.run_turns (h : Twins s s') (ha : s.agenda = []) (ha' : s'.agenda = []) (k : Nat) :
    ∃ s₁ s₁' : State, Host.Core.run core k s = .next s₁ ∧ Host.Core.run core k s' = .next s₁' ∧ Twins s₁ s₁' := by
  induction k generalizing s s' with
  | zero => exact ⟨s, s', rfl, rfl, h⟩
  | succ k ih =>
    obtain ⟨s₁, s₁', hturn, hturn', h₁⟩ := h.sequencerTurn_keeps
    rw [run_succ k ((step_of_nil ha).trans hturn), run_succ k ((step_of_nil ha').trans hturn')]
    exact ih h₁ ((sequencerTurn_agenda hturn).trans ha) ((sequencerTurn_agenda hturn').trans ha')

/-- Settles O58: the two STARTs enter runs side by side, and every turn keeps them there. -/
theorem noStateLeaksIntoARun : Obligations.NoStateLeaksIntoARun := by
  intro s s' k hb hb' ha ha' hL hLEN hMSG
  obtain ⟨s₁, s₁', hrun, hrun', h⟩ := (twins_beginRun hL hLEN hMSG).run_turns ha ha' k
  exact ⟨_, _, s₁, s₁', execStart_accepted hb hL, execStart_accepted hb' (by rwa [hLEN]), hrun, hrun', h.H, h.position,
    h.flags⟩

end Sys2Proof.Machine
end

section
/-! The position of the sequencer turn by turn, and the bytes of the digest (44_driver_host.md R168, R171). -/

namespace Sys2Proof.Machine

/-- Settles O40, phase by phase: the invariant keeps the counters from wrapping, and a run has its position in range. -/
theorem nextPositionTable : Obligations.NextPositionTable := by
  intro s hinv he hport
  have hstep : step s = sequencerTurn (afterFetch s) := by rw [step, he, runEvent]
  have hpos := hinv.position
  rw [hstep]
  cases hp : s.phase with
  | idle => exact ⟨_, sequencerTurn_idle hp, fun _ => ⟨rfl, rfl, rfl⟩, nofun, nofun, nofun, nofun, nofun, nofun, nofun⟩
  | load =>
    have ht : s.t.toNat ≤ 15 := by simpa [positionOk, hp] using hpos
    obtain ⟨hB, -⟩ := hinv.flags_of_running (by simp [hp])
    have hd : padDefined s = true := padDefined_of_block (hinv.length hB) (hinv.block hB) ht
    obtain ⟨x, hx⟩ := Option.ne_none_iff_exists'.1 (hport hp)
    refine ⟨loadInto x (afterFetch s), ?_, nofun, fun _ hmore => ?_, fun _ hlast => ?_, nofun, nofun, nofun,
      nofun, nofun⟩
    · exact (sequencerTurn_load (s := afterFetch s) hp).trans (execLoadw_loads hp ht hd hx)
    · obtain ⟨hp', ht'⟩ := loadInto_position_next (s := afterFetch s) x hp hmore
      exact ⟨hp', rfl, ht'⟩
    · obtain ⟨hp', ht'⟩ := loadInto_position_last (s := afterFetch s) x hlast
      exact ⟨hp', rfl, (congrArg _ ht').trans hlast⟩
  | seed =>
    exact ⟨_, (sequencerTurn_seed (s := afterFetch s) hp).trans (if_pos hp), nofun, nofun, nofun, fun _ => ⟨rfl, rfl, rfl⟩,
      nofun, nofun, nofun, nofun⟩
  | round =>
    have ht : s.t.toNat ≤ 79 := by simpa [positionOk, hp] using hpos
    refine ⟨_, sequencerTurn_round (s := afterFetch s) (q := ⟨_, quarter_lt ht⟩) hp rfl, nofun, nofun, nofun, nofun,
      fun _ hmore => ?_, fun _ hlast => ?_, nofun, nofun⟩
    · obtain ⟨hp', ht'⟩ := roundInto_position_next (s := afterFetch s) _ hp hmore
      exact ⟨hp', rfl, ht'⟩
    · obtain ⟨hp', ht'⟩ := roundInto_position_last (s := afterFetch s) _ hlast
      exact ⟨hp', rfl, (congrArg _ ht').trans hlast⟩
  | fold =>
    have ht : s.t.toNat = 79 := by simpa [positionOk, hp] using hpos
    obtain ⟨hB, -⟩ := hinv.flags_of_running (by simp [hp])
    refine ⟨_, (sequencerTurn_fold (s := afterFetch s) hp).trans (if_pos hp), nofun, nofun, nofun, nofun, nofun, nofun,
      fun _ hmore => ?_, fun _ hlast => ?_⟩
    · obtain ⟨hp', ht', ⟨hB', -⟩, hblk⟩ := foldInto_goes_on (s := afterFetch s) hmore.ne
      exact ⟨hp', by rw [hblk]; exact blk_succ (hinv.length hB) (hinv.block hB), by rw [ht']; rfl, hB'.trans hB⟩
    · obtain ⟨hp', hB', hD', -, hblk, ht'⟩ := foldInto_ends (s := afterFetch s) hlast
      exact ⟨hp', hblk, (congrArg _ ht').trans ht, hB', hD'⟩
  | reserved5 | reserved6 | reserved7 => simp [positionOk, hp] at hpos

/-- Byte `4 * i + k` of words written out is byte `k` of word `i`, the most significant byte first. -/
theorem getElem?_flatMap_wordBytes (l : List Word) (i : Nat) {k : Nat} (hk : k < 4) :
    (l.flatMap wordBytes)[4 * i + k]? = l[i]?.map (fun x => x.extractLsb' (24 - 8 * k) 8) := by
  induction l generalizing i with
  | nil => simp
  | cons x l ih =>
    rw [List.flatMap_cons]
    cases i with
    | zero =>
      rw [List.getElem?_append_left (by simpa [wordBytes] using hk)]
      interval_cases k <;> rfl
    | succ i =>
      have hlen : (wordBytes x).length = 4 := rfl
      have hindex : 4 * (i + 1) + k - 4 = 4 * i + k := by omega
      rw [List.getElem?_append_right (by omega), hlen, hindex, ih, List.getElem?_cons_succ]

/-- Settles O51: five words of four bytes each. -/
theorem digestIsTwentyBytesBigEndian : Obligations.DigestIsTwentyBytesBigEndian := by
  refine fun H => ⟨?_, fun i k hi hk => ?_⟩
  · simp [digestBytes, List.length_flatMap, wordBytes]
  · rw [digestBytes, getElem?_flatMap_wordBytes _ i hk]
    simp [hi]

end Sys2Proof.Machine
end

section
/-! The one exception: the START that raises it, and that nothing else stops a step (60_exceptions.md R181, R183). -/

namespace Sys2Proof.Machine

variable {s : State}

/-- Raising InputTooLarge writes `ERR` and `DONE` and nothing else (60_exceptions.md R183). -/
theorem raiseInputTooLarge_frame (s : State) :
    (raiseInputTooLarge s).H = s.H ∧ (raiseInputTooLarge s).wv = s.wv ∧ (raiseInputTooLarge s).W = s.W ∧
      (raiseInputTooLarge s).LEN = s.LEN ∧ SamePosition s (raiseInputTooLarge s) ∧
      SameMessage s (raiseInputTooLarge s) ∧ SameAround s (raiseInputTooLarge s) :=
  ⟨rfl, rfl, rfl, rfl, ⟨rfl, rfl, rfl⟩, sameMessage_of_eq rfl rfl, rfl, rfl, rfl, rfl⟩

/-- Settles O23: `BUSY` keeps its flag, which is 0 where it reads 0, and in `IDLE` the position stays there. -/
theorem refusedStartRaisesInputTooLarge : Obligations.RefusedStartRaisesInputTooLarge := by
  intro s hb hL
  obtain ⟨hB, -⟩ := busy_eq_false_iff.1 hb
  obtain ⟨hH, hwv, hW, hLEN, hpos, hmsg, haround⟩ := raiseInputTooLarge_frame s
  exact ⟨raiseInputTooLarge s, execStart_refused hb hL, rfl, rfl, hB, hH, hwv, hW, hLEN, hpos, hmsg, haround,
    fun hp => sequencerTurn_idle hp⟩

/-- In a slot of the padded message a LOADW answers next, whether the port delivers its word or is silent
(20_memory.md R52). -/
theorem execLoadw_answers (hp : s.phase = .load) (ht : s.t.toNat ≤ 15) (hd : padDefined s = true) :
    ∃ s', execLoadw s = .next s' := by
  cases hw : loadWord s with
  | some x => exact ⟨_, execLoadw_loads hp ht hd hw⟩
  | none => exact ⟨_, execLoadw_silent hp ht hd hw⟩

/-- Of the micro-operations that a selector names only a LOADW out of range can fault (30_encoding.md R78, R79). -/
theorem sequencerTurn_answers (hload : s.phase = .load → s.t.toNat ≤ 15 ∧ padDefined s = true) :
    ∃ s', sequencerTurn s = .next s' := by
  cases hp : s.phase with
  | idle => exact ⟨_, sequencerTurn_idle hp⟩
  | load =>
    obtain ⟨ht, hd⟩ := hload hp
    rw [sequencerTurn_load hp]
    exact execLoadw_answers hp ht hd
  | seed => exact ⟨_, (sequencerTurn_seed hp).trans (if_pos hp)⟩
  | round =>
    by_cases ht : s.t.toNat ≤ 79
    · exact ⟨_, sequencerTurn_round (q := ⟨_, quarter_lt ht⟩) hp rfl⟩
    · exact ⟨_, sequencerTurn_round_over hp (Nat.lt_of_not_le ht)⟩
  | fold => exact ⟨_, (sequencerTurn_fold hp).trans (if_pos hp)⟩
  | reserved5 | reserved6 | reserved7 => exact ⟨_, sequencerTurn_of_reservedPhase (by rw [hp]; rfl)⟩

/-- Only the sequencer's turn can stop a step: the host's events always answer next (30_encoding.md R77). -/
theorem step_answers (hturn : ∃ s', sequencerTurn (afterFetch s) = .next s') : ∃ s', step s = .next s' := by
  unfold step
  cases nextEvent s with
  | txn r => exact runRecord_answers r _
  | reset => exact ⟨_, rfl⟩
  | place a v => exact ⟨_, rfl⟩
  | core => exact hturn

/-- In LOAD the invariant puts the position in a slot of the padded message (41_padding_endianness.md R118). -/
theorem Inv.load_in_range (h : Inv s) (hp : s.phase = .load) : s.t.toNat ≤ 15 ∧ padDefined s = true := by
  have ht : s.t.toNat ≤ 15 := by simpa [positionOk, hp] using h.position
  obtain ⟨hB, -⟩ := h.flags_of_running (by simp [hp])
  exact ⟨ht, padDefined_of_block (h.length hB) (h.block hB) ht⟩

/-- Settles O13: the invariant puts every LOADW in range, and nothing else can stop. -/
theorem noStepFromTheInvariantStops : Obligations.NoStepFromTheInvariantStops := fun _ hinv =>
  step_answers (sequencerTurn_answers hinv.afterFetch_keeps.load_in_range)

end Sys2Proof.Machine
end

section
/-! Where a micro-operation is enabled: it stops by name elsewhere; a placed one has its position (30_encoding.md R72,
R79; 41_padding_endianness.md R118; 43_compression.md R140, R141, R146). -/

namespace Sys2Proof.Machine

variable {s : State} {r : Record} {u : Selector} {c : Code} {i : Instr}

/-- A round stops outside `ROUND`, and in `ROUND` outside its quarter (43_compression.md R141). -/
theorem roundStep_notEnabled {q : Fin 4} (h : s.phase ≠ .round ∨ quarter s.t.toNat ≠ q.val) :
    roundStep q s = .fault .notEnabled :=
  if_neg fun ⟨hp, hq⟩ => h.elim (absurd hp) (absurd hq)

/-- Settles O39: each micro-operation asks for its phase first, and a round for its quarter too. -/
theorem microOperationsStopWhereNotEnabled : Obligations.MicroOperationsStopWhereNotEnabled := fun _ =>
  ⟨fun h => if_neg h, fun h => if_neg h, fun h => if_neg h, roundStep_notEnabled (q := 0),
    roundStep_notEnabled (q := 1), roundStep_notEnabled (q := 2), roundStep_notEnabled (q := 3)⟩

/-- A LOADW in a slot, at bytes outside the padded message (41_padding_endianness.md R112). -/
theorem execLoadw_padUndefined (hp : s.phase = .load) (ht : s.t.toNat ≤ 15) (hd : padDefined s ≠ true) :
    execLoadw s = .fault .padUndefined := by
  unfold execLoadw
  rw [if_pos hp, if_pos ht, if_neg hd]

/-- The sequencer takes an enabled step only, so with `t` at a slot in `LOAD` its one fault is the undefined padding. -/
theorem eq_padUndefined_of_sequencerTurn_fault {f : Fault} (hslot : s.phase = .load → s.t.toNat ≤ 15)
    (h : sequencerTurn s = .fault f) : f = .padUndefined := by
  by_cases hd : s.phase = .load → padDefined s = true
  · obtain ⟨s', hs⟩ := sequencerTurn_answers fun hp => ⟨hslot hp, hd hp⟩
    rw [hs] at h
    cases h
  · obtain ⟨hp, hd⟩ := Classical.not_imp.1 hd
    rw [sequencerTurn_load hp, execLoadw_padUndefined hp (hslot hp) hd] at h
    cases h
    rfl

theorem exec_of_decodeHost (h : decodeHost r = .instr i) : exec i s = runRecord r s := by
  rw [runRecord, h]

theorem exec_of_usel (hu : usel s = some u) (h : decodeUsel u = .instr i) : exec i s = sequencerTurn s := by
  simp only [sequencerTurn, hu, h]

/-- A selector is made of its two fields (30_encoding.md R72). -/
theorem selector_fields : ∀ u : Selector,
    ((phaseCode (selectorPhase u) ++ BitVec.ofNat 2 (selectorQuarter u)).cast (by decide) : Selector) = u := by
  decide

theorem selectorQuarter_lt (u : Selector) : selectorQuarter u < 4 := (u.extractLsb' 0 2).isLt

/-- Outside `ROUND` the selector of a micro-operation has quarter 0 (30_encoding.md R74). -/
theorem selectorQuarter_of_decodeUsel (h : decodeUsel u = .instr i) (hp : selectorPhase u ≠ .round) :
    selectorQuarter u = 0 := by
  have he := encode_of_decodeUsel h
  cases i with
  | start | nop | wrlenlo | wrlenhi | rdreg => cases he
  | loadw | seed | fold => cases he; rfl
  | rnd0 | rnd1 | rnd2 | rnd3 => cases he; exact absurd rfl hp

/-- At the position of a micro-operation the selector is its own (30_encoding.md R72). -/
theorem usel_positionFor (h : decodeUsel u = .instr i) : usel (positionFor u s) = some u := by
  have hphase : (positionFor u s).phase = selectorPhase u := rfl
  by_cases hp : selectorPhase u = .round
  · have hq : quarter (positionFor u s).t.toNat = selectorQuarter u := (indexFor_fits u s.t).1 hp
    have ht : (positionFor u s).t.toNat ≤ 79 := by
      have := selectorQuarter_lt u
      unfold quarter at hq
      omega
    rw [usel, if_pos (hphase.trans hp), if_pos ht, hq, hphase, selector_fields]
  · have hu := selector_fields u
    rw [selectorQuarter_of_decodeUsel h hp] at hu
    rw [usel, if_neg (hphase.trans_ne hp), hphase]
    exact congrArg some hu

/-- A placed operation is the next one run, enabled, on the state with at most its position moved (log entry 13). -/
theorem step_placeCode (s : State) (h : decode c = .instr i) :
    ∃ s', step (placeCode c s) = exec i s' ∧ { s' with phase := s.phase, t := s.t } = s ∧
      exec i s' ≠ .fault .notEnabled ∧ exec i s' ≠ .fault .noSlot := by
  cases c with
  | host r =>
    obtain ⟨s', hs⟩ := runRecord_answers r s
    refine ⟨s, (stepRunsTheDecodedTransaction _ r s.agenda rfl).1 i h, rfl, ?_⟩
    rw [exec_of_decodeHost h, hs]
    exact ⟨nofun, nofun⟩
  | usel u =>
    have hu : usel (positionFor u s) = some u := usel_positionFor h
    have hfault {f : Fault} : sequencerTurn (positionFor u s) = .fault f → f = .padUndefined :=
      eq_padUndefined_of_sequencerTurn_fault (indexFor_fits u s.t).2
    refine ⟨positionFor u s, (stepRunsTheSelectedMicroOperation _ s.agenda (.inl rfl)).1 u i hu h, rfl, ?_⟩
    rw [exec_of_usel hu h]
    exact ⟨fun hf => (nomatch hfault hf), fun hf => (nomatch hfault hf)⟩

theorem eq_instr_of_decodedInstr {d : Decoded} (h : decodedInstr? d = some i) : d = .instr i := by
  cases d with
  | instr j => exact congrArg Decoded.instr (Option.some.inj h)
  | reject x => cases h

/-- A table word that reads as an operation is the word of a code that decodes to it. -/
theorem code_of_decodeTableWord {nbits w : Nat} (h : decodeTableWord nbits w = some i) :
    ∃ c, codeOfTableWord nbits w = some c ∧ decode c = .instr i := by
  unfold decodeTableWord at h
  cases hc : codeOfTableWord nbits w with
  | none => rw [hc] at h; cases h
  | some c => rw [hc] at h; exact ⟨c, rfl, eq_instr_of_decodedInstr h⟩

/-- Settles O9: the word's code is placed, and a placed code is the next one run. -/
theorem placedWordIsTheNextInstruction : Obligations.PlacedWordIsTheNextInstruction := by
  intro s nbits w i h
  obtain ⟨c, hc, hi⟩ := code_of_decodeTableWord h
  have hplace : s.withFetchWord nbits w = placeCode c s := by rw [State.withFetchWord, hc]
  rw [hplace]
  exact step_placeCode s hi

end Sys2Proof.Machine
end
